-- ==== Sys2Proof/Word.lean ====
section
/-! DEFINITION. The machine's two word types (spec/00_scope.md R11: port values, masks, command bytes, data
bytes and pattern bytes are 8 bits wide; a strobe carries a nibble, R111). -/
namespace Sys2Proof

/-- A port value, mask, command byte, data byte, pattern row or host byte (R11). -/
abbrev Byte := BitVec 8

/-- What one strobe carries (R111), `n[3]` on D7 down to `n[0]` on D4 (R64). -/
abbrev Nibble := BitVec 4

end Sys2Proof
end

