-- ==== Sys2Proof/Config.lean ====
section
/-! DEFINITION. What is fixed for the machine's lifetime (spec/00_scope.md R6, spec/10_state.md R28, R29), the
parameter set that `State.reset` is built with, and the free values the spec leaves open: each an opaque constant
with no body, so that nothing can be proved of its value. -/
namespace Sys2Proof

/-- One of the two physical controllers, "distinguished solely by which Enable line is strobed" (R1, R23). -/
inductive Controller where
  | one
  | two
deriving DecidableEq, Repr, Inhabited

/-- A controller's address counter, as far as the two address commands and the increment show it
(spec/20_memory.md R60, R61, R62, R75): a 7-bit DDRAM address or a 6-bit CGRAM address. -/
inductive AddrCounter where
  | ddram (a : BitVec 7)
  | cgram (a : BitVec 6)
deriving DecidableEq, Repr, Inhabited

/-- The PinMapping (R6, R28): port-pin indices of the logical signals; Enable-2 and Backlight are optional.
An index is a plain number, so that an ill-formed one (R7) can be written down and refused. -/
structure PinMap where
  e1 : Nat
  e2 : Option Nat
  rs : Nat
  rw : Nat
  d4 : Nat
  d5 : Nat
  d6 : Nat
  d7 : Nat
  bl : Option Nat
deriving DecidableEq, Repr

/-- The parameter set of R6: the DisplayGeometry (R29), the PinMapping (R28), `T_INIT` in microseconds (R133) and
`PORT_INIT` (R37). "The model takes them as arguments of the machine": every theorem about all states is about all
parameter sets, because the state carries its set and no operation writes it. -/
structure Params where
  width    : Nat
  height   : Nat
  pins     : PinMap
  tInit    : Nat
  portInit : Byte
deriving DecidableEq, Repr

/-- The example pin map PM_A of R59: RS=0, RW=1, E1=2, BL=3, D4..D7=4..7, no Enable-2. -/
def PinMap.pmA : PinMap :=
  { e1 := 2, e2 := none, rs := 0, rw := 1, d4 := 4, d5 := 5, d6 := 6, d7 := 7, bl := some 3 }

/-- DESIGN CHOICE (unsafe; notes/assumptions/1.md): the parameter set `State.reset` carries, the one of the spec's
programs P1, P3, P4 and P5 (spec/95_test_vectors.md): 16×2, PM_A, `PORT_INIT` = 0x00, `T_INIT` = 2 ms. The spec fixes
none; `State.resetWith p` is the reset of the machine built with any other set. -/
def Config.params : Params :=
  { width := 16, height := 2, pins := PinMap.pmA, tInit := 2000, portInit := 0x00#8 }

/-- The transport oracle's answer to the transport write drawn at count `n` (R9, R57: "under no law (any write may
fail)"), used where the state lists no answer. Free value (notes/assumptions/2.md), safe. -/
opaque Config.transportAnswer : Nat → Bool

/-- `CACHED` after the Port has closed: it "loses its meaning" (R32, R135). Free value (notes/assumptions/3.md), safe. -/
opaque Config.closedCache : Nat → Byte

/-- The physical level of the eight port lines, as `readInputByte` samples it (R38 (a), R55; U10: "any value").
Free value (notes/assumptions/4.md), safe. -/
opaque Config.lineLevels : Nat → Byte

/-- D3..D0 of a controller in 8-bit mode, "undriven by the engine" (R88). Free value (notes/assumptions/9.md), safe. -/
opaque Config.undrivenNibble : Controller → Nat → Nibble

/-- A controller's address counter after a command byte the engine never sends and the spec gives no effect (R91:
return home, cursor/display shift; and the byte 0x00). Free value (notes/assumptions/10.md), safe. -/
opaque Config.strayAddress : Controller → Nat → AddrCounter

/-- The DDRAM address counter after a step beyond its last address (`true`, counting up) or its first (`false`,
counting down): R75 says it increments and states no result there. A free 7-bit address (notes/assumptions/11.md), one
for both controllers and every time (DESIGN CHOICE, unsafe, notes/assumptions/29.md). -/
opaque Config.ddramWrap : Bool → BitVec 7

/-- The same for the 6-bit CGRAM address counter (notes/assumptions/11.md, notes/assumptions/29.md). -/
opaque Config.cgramWrap : Bool → BitVec 6

end Sys2Proof
end

