-- ==== Sys2Proof/Syntax.lean ====
section
/-! DEFINITION. The instructions: one constructor per row of spec/opcode_table.json, in the table's order. The first
fifteen are host operations (layer 1, spec/30_encoding.md R82, R85), the last ten the LCD transfers the engine makes
(layer 2, R86, R87, R88, R114). Operands are those of R83, already decoded: the bits the spec says are ignored are
not here. -/
namespace Sys2Proof

inductive Instr where
  /-- NOP, opcode 0x00 (R159). -/
  | nop
  /-- CONNECT, opcode 0x01 (R131). -/
  | connect
  /-- DISCONNECT, opcode 0x02 (R135). -/
  | disconnect
  /-- PRINT, opcode 0x03 (R151): a 1-based line number and 0 or more character codes. -/
  | print (line : Byte) (text : List Byte)
  /-- CLEAR_LINE, opcode 0x04 (R152). -/
  | clearLine (line : Byte)
  /-- CLEAR_DISPLAY, opcode 0x05 (R153). -/
  | clearDisplay
  /-- BACKLIGHT, opcode 0x06 (R155): the level, bit 0 of the operand byte. -/
  | backlight (enable : Bool)
  /-- SET_CGRAM, opcode 0x07 (R154): bits 5:0 of the address byte, and the pattern's rows, `pattern[0]` first. -/
  | setCgram (address : BitVec 6) (pattern : List Byte)
  /-- SET_CGRAM_AUTO, opcode 0x08 (R180). -/
  | setCgramAuto (pattern : List Byte)
  /-- INIT_BARGRAPH, opcode 0x09 (R181). -/
  | initBargraph
  /-- HAS_BACKLIGHT, opcode 0x0A (R156). -/
  | hasBacklight
  /-- GET_WIDTH, opcode 0x0B (R157). -/
  | getWidth
  /-- GET_HEIGHT, opcode 0x0C (R158). -/
  | getHeight
  /-- BARGRAPH, opcode 0x0D (R184). -/
  | bargraph (line : Byte) (value : Byte)
  /-- RESERVED, opcodes 0x0E to 0xFF (R85). -/
  | reserved (opcode : Byte)
  /-- LCD_SET_DDRAM_ADDR, the command byte `1aaaaaaa` (R86). -/
  | lcdSetDdramAddr (a : BitVec 7)
  /-- LCD_SET_CGRAM_ADDR, the command byte `01aaaaaa` (R86). -/
  | lcdSetCgramAddr (a : BitVec 6)
  /-- LCD_FUNCTION_SET_4BIT_2LINE, the command byte 0x28 (R87). -/
  | lcdFunctionSet
  /-- LCD_DISPLAY_OFF, the command byte 0x08 (R87). -/
  | lcdDisplayOff
  /-- LCD_CLEAR_DISPLAY, the command byte 0x01 (R87). -/
  | lcdClearDisplay
  /-- LCD_ENTRY_MODE_INCREMENT, the command byte 0x06 (R87). -/
  | lcdEntryMode
  /-- LCD_DISPLAY_ON_NOCURSOR_NOBLINK, the command byte 0x0C (R87). -/
  | lcdDisplayOn
  /-- LCD_FORCE_8BIT, the handshake nibble 0011 (R88). -/
  | lcdForce8bit
  /-- LCD_SWITCH_4BIT, the handshake nibble 0010 (R88). -/
  | lcdSwitch4bit
  /-- LCD_DATA, a data byte, sent with RS high (R114). -/
  | lcdData (d : Byte)
deriving DecidableEq, Repr

end Sys2Proof
end

