-- ==== Sys2Proof/WellFormed.lean ====
section
/-! DEFINITION. Which terms of `Instr` are instructions: a pattern has 8 rows (spec/30_encoding.md R83), a reserved
opcode is in 0x0E..0xFF (R85); and which layer a constructor belongs to (R80). -/
namespace Sys2Proof

/-- A pattern operand is 8 bytes (R83). -/
def patternOk (pattern : List Byte) : Bool := pattern.length == 8

/-- A reserved opcode is one of 0x0E..0xFF (R85). -/
def reservedOk (opcode : Byte) : Bool := decide (0x0E ≤ opcode.toNat)

/-- The operands are ones an encoding can carry. -/
def Instr.wellFormed : Instr → Bool
  | .nop => true
  | .connect => true
  | .disconnect => true
  | .print _ _ => true
  | .clearLine _ => true
  | .clearDisplay => true
  | .backlight _ => true
  | .setCgram _ pattern => patternOk pattern
  | .setCgramAuto pattern => patternOk pattern
  | .initBargraph => true
  | .hasBacklight => true
  | .getWidth => true
  | .getHeight => true
  | .bargraph _ _ => true
  | .reserved opcode => reservedOk opcode
  | .lcdSetDdramAddr _ => true
  | .lcdSetCgramAddr _ => true
  | .lcdFunctionSet => true
  | .lcdDisplayOff => true
  | .lcdClearDisplay => true
  | .lcdEntryMode => true
  | .lcdDisplayOn => true
  | .lcdForce8bit => true
  | .lcdSwitch4bit => true
  | .lcdData _ => true

/-- Where an encoding lives (R80), as the opcode table's "format" names it: HOST, LCD_CMD, LCD_NIBBLE, LCD_DATA. The
same eight bits mean different rows in different layers, so a decoder is given the layer. -/
inductive Layer where
  | hostFrame
  | lcdCommand
  | lcdNibble
  | lcdData
deriving DecidableEq, Repr

/-- The layer of each row (the table's "format"). -/
def Instr.layer : Instr → Layer
  | .nop => .hostFrame
  | .connect => .hostFrame
  | .disconnect => .hostFrame
  | .print _ _ => .hostFrame
  | .clearLine _ => .hostFrame
  | .clearDisplay => .hostFrame
  | .backlight _ => .hostFrame
  | .setCgram _ _ => .hostFrame
  | .setCgramAuto _ => .hostFrame
  | .initBargraph => .hostFrame
  | .hasBacklight => .hostFrame
  | .getWidth => .hostFrame
  | .getHeight => .hostFrame
  | .bargraph _ _ => .hostFrame
  | .reserved _ => .hostFrame
  | .lcdSetDdramAddr _ => .lcdCommand
  | .lcdSetCgramAddr _ => .lcdCommand
  | .lcdFunctionSet => .lcdCommand
  | .lcdDisplayOff => .lcdCommand
  | .lcdClearDisplay => .lcdCommand
  | .lcdEntryMode => .lcdCommand
  | .lcdDisplayOn => .lcdCommand
  | .lcdForce8bit => .lcdNibble
  | .lcdSwitch4bit => .lcdNibble
  | .lcdData _ => .lcdData

end Sys2Proof
end

