-- ==== Sys2Proof/Decode.lean ====
section
/-! DEFINITION. The decoder and the encoder, from spec/30_encoding.md: host frames (layer 1: R81 to R85, R93), LCD
command bytes, handshake nibbles and the data byte (layer 2: R86 to R88, R114), and the framing of the host's byte
stream (R81). Every decoder is total and rejects by name. -/
namespace Sys2Proof

/-- Why bits are no instruction. -/
inductive DecodeError where
  /-- A host frame shorter than its opcode's fixed operands (R85). The engine consumes it with no effect. -/
  | shortFrame (opcode : Byte)
  /-- No byte at all: a frame has at least its opcode (R81). -/
  | emptyFrame
  /-- An LCD command byte the engine never sends (R91). -/
  | lcdCommandNotSent (b : Byte)
  /-- A handshake nibble the engine never sends (R88). -/
  | lcdNibbleNotSent (n : Nibble)
  /-- An LCD transfer is one byte or one nibble (R80). -/
  | notOneWord
deriving DecidableEq, Repr

/-! ## Layer 1: host frames -/

/-- The length of an opcode's fixed part in bytes (R93); a reserved opcode has the opcode alone (R85). -/
def fixedLength (opcode : Nat) : Nat :=
  match opcode with
  | 0x03 => 2
  | 0x04 => 2
  | 0x06 => 2
  | 0x07 => 10
  | 0x08 => 9
  | 0x0D => 3
  | _ => 1

/-- `enable`: bit 0 is the level, bits 7:1 are ignored (R83). -/
def enableOf (b : Byte) : Bool := b.getLsbD 0

/-- `address`: bits 5:0 are the CGRAM address, bits 7:6 are ignored (R83). -/
def cgramAddressOf (b : Byte) : BitVec 6 := b.extractLsb' 0 6

/-- The instruction an opcode and its operand bytes (`args`, at least as many as R93 fixes; a missing one reads as 0)
stand for (R82, R83): bytes beyond the fixed operands are ignored but for PRINT's payload (R85). -/
def decodeOperands (opcode : Byte) (args : List Byte) : Instr :=
  match opcode.toNat with
  | 0x00 => .nop
  | 0x01 => .connect
  | 0x02 => .disconnect
  | 0x03 => .print (args.getD 0 0) (args.drop 1)
  | 0x04 => .clearLine (args.getD 0 0)
  | 0x05 => .clearDisplay
  | 0x06 => .backlight (enableOf (args.getD 0 0))
  | 0x07 => .setCgram (cgramAddressOf (args.getD 0 0)) ((args.drop 1).take 8)
  | 0x08 => .setCgramAuto (args.take 8)
  | 0x09 => .initBargraph
  | 0x0A => .hasBacklight
  | 0x0B => .getWidth
  | 0x0C => .getHeight
  | 0x0D => .bargraph (args.getD 0 0) (args.getD 1 0)
  | _ => .reserved opcode

/-- Decode one host frame (R81 to R85, R93). -/
def decodeFrame (frame : List Byte) : Except DecodeError Instr :=
  match frame with
  | [] => .error .emptyFrame
  | opcode :: args =>
    if args.length + 1 < fixedLength opcode.toNat then .error (.shortFrame opcode)
    else .ok (decodeOperands opcode args)

/-! ## Layer 2: LCD command bytes, handshake nibbles, data bytes -/

/-- FUNCTION_SET(4-bit,2-line) (R87). -/
def functionSetByte : Byte := 0x28

/-- DISPLAY_OFF (R87). -/
def displayOffByte : Byte := 0x08

/-- CLEAR_DISPLAY (R87). -/
def clearDisplayByte : Byte := 0x01

/-- ENTRY_MODE_INCREMENT (R87). -/
def entryModeByte : Byte := 0x06

/-- DISPLAY_ON(cursor off, blink off) (R87). -/
def displayOnByte : Byte := 0x0C

/-- FORCE_8BIT, the nibble 0011 (R88). -/
def force8bitNibble : Nibble := 0x3

/-- SWITCH_4BIT, the nibble 0010 (R88). -/
def switch4bitNibble : Nibble := 0x2

/-- `0x80 | address` (R86, R90). -/
def setDdramByte (a : BitVec 7) : Byte := 0x80 ||| a.setWidth 8

/-- `0x40 | address` (R86, R90). -/
def setCgramByte (a : BitVec 6) : Byte := 0x40 ||| a.setWidth 8

/-- A nibble passed as a byte whose bits 7:4 hold it (R63, R88). -/
def nibbleByte (n : Nibble) : Byte := n.setWidth 8 <<< 4

/-- The row of the opcode table an LCD command byte is (R86, R87); the others are never sent (R91). -/
def decodeLcdCommand (b : Byte) : Except DecodeError Instr :=
  if b.getLsbD 7 then .ok (.lcdSetDdramAddr (b.extractLsb' 0 7))
  else if b.getLsbD 6 then .ok (.lcdSetCgramAddr (b.extractLsb' 0 6))
  else if b = functionSetByte then .ok .lcdFunctionSet
  else if b = displayOffByte then .ok .lcdDisplayOff
  else if b = clearDisplayByte then .ok .lcdClearDisplay
  else if b = entryModeByte then .ok .lcdEntryMode
  else if b = displayOnByte then .ok .lcdDisplayOn
  else .error (.lcdCommandNotSent b)

/-- The row of the opcode table a handshake nibble is (R88). -/
def decodeLcdNibble (n : Nibble) : Except DecodeError Instr :=
  if n = force8bitNibble then .ok .lcdForce8bit
  else if n = switch4bitNibble then .ok .lcdSwitch4bit
  else .error (.lcdNibbleNotSent n)

/-- Decode the words of one layer: a frame, a command byte, a nibble (in bits 3:0, as the table numbers it), a data
byte. -/
def decodeLayer (layer : Layer) (words : List Byte) : Except DecodeError Instr :=
  match layer, words with
  | .hostFrame, frame => decodeFrame frame
  | .lcdCommand, [b] => decodeLcdCommand b
  | .lcdNibble, [b] => decodeLcdNibble (b.extractLsb' 0 4)
  | .lcdData, [b] => .ok (.lcdData b)
  | .lcdCommand, _ => .error .notOneWord
  | .lcdNibble, _ => .error .notOneWord
  | .lcdData, _ => .error .notOneWord

/-! ## The encoder -/

/-- `enable` as an operand byte (R83). -/
def enableByte (enable : Bool) : Byte := (BitVec.ofBool enable).setWidth 8

/-- The words of an instruction in its layer: the frame's bytes (R82, R83, R93), the LCD byte (R86, R87, R114), or
the handshake nibble in bits 3:0 (R88). -/
def encode : Instr → List Byte
  | .nop => [0x00]
  | .connect => [0x01]
  | .disconnect => [0x02]
  | .print line text => 0x03 :: line :: text
  | .clearLine line => [0x04, line]
  | .clearDisplay => [0x05]
  | .backlight enable => [0x06, enableByte enable]
  | .setCgram address pattern => 0x07 :: address.setWidth 8 :: pattern
  | .setCgramAuto pattern => 0x08 :: pattern
  | .initBargraph => [0x09]
  | .hasBacklight => [0x0A]
  | .getWidth => [0x0B]
  | .getHeight => [0x0C]
  | .bargraph line value => [0x0D, line, value]
  | .reserved opcode => [opcode]
  | .lcdSetDdramAddr a => [setDdramByte a]
  | .lcdSetCgramAddr a => [setCgramByte a]
  | .lcdFunctionSet => [functionSetByte]
  | .lcdDisplayOff => [displayOffByte]
  | .lcdClearDisplay => [clearDisplayByte]
  | .lcdEntryMode => [entryModeByte]
  | .lcdDisplayOn => [displayOnByte]
  | .lcdForce8bit => [force8bitNibble.setWidth 8]
  | .lcdSwitch4bit => [switch4bitNibble.setWidth 8]
  | .lcdData d => [d]

/-! ## The host's byte stream -/

/-- One byte of the host's stream with its `last` flag (R81). -/
structure HostByte where
  data : Byte
  last : Bool
deriving DecidableEq, Repr

/-- Cut the first frame off a byte stream: the bytes up to and with the first one whose `last` flag is set (R81, R93);
none while that byte has not arrived. -/
def takeFrame (stream : List HostByte) : Option (List Byte × List HostByte) :=
  match stream with
  | [] => none
  | b :: rest =>
    if b.last then some ([b.data], rest)
    else
      match takeFrame rest with
      | none => none
      | some (frame, after) => some (b.data :: frame, after)

/-- A frame's bytes as the host sends them, `last` set on the final one (R81). -/
def sendFrame (frame : List Byte) : List HostByte :=
  match frame with
  | [] => []
  | [b] => [{ data := b, last := true }]
  | b :: c :: rest => { data := b, last := false } :: sendFrame (c :: rest)

/-! ## The opcode table's numbering -/

/-- Byte `k` of a word whose bit 0 is the least significant bit of the first byte. -/
def tableByte (w k : Nat) : Byte := BitVec.ofNat 8 (w / 2 ^ (8 * k))

/-- The frame whose first `nbits` bits are `w` and whose other bits are 0, as long as its opcode's fixed part (R93). -/
def tableFrame (nbits w : Nat) : List Byte :=
  let bits := w % 2 ^ nbits
  let length := max ((nbits + 7) / 8) (fixedLength (bits % 256))
  (List.range length).map (tableByte bits)

/-- The instruction the decoder reads from an instruction numbered as spec/opcode_table.json numbers it. Only host
frames reach the engine (R80, R81), so the word is read as one; the LCD rows of the table are layer 2, and their bits
in a host frame are the opcode R82 or R85 says (notes/assumptions/6.md). -/
def decodeTableWord (nbits w : Nat) : Option Instr :=
  match decodeFrame (tableFrame nbits w) with
  | .ok i => some i
  | .error _ => none

end Sys2Proof
end

