-- ==== Sys2Proof/Machine/State.lean ====
section
/-! DEFINITION. The machine's state as plain data, its reset, and the reasons a step can stop. The first eight
registers are the complete state the spec gives the machine (spec/10_state.md R20); the parameter set (R6), the host's
two channels (spec/30_encoding.md R81, R84), the port trace (spec/00_scope.md R10) and the transport oracle's answers
(R9) are the machine's surroundings as the state carries them; the two controllers are the reference sink of
spec/20_memory.md R75 behind the Port (R38 (b), R50), which no engine rule reads. -/
namespace Sys2Proof.Machine

/-- The engine-level state (R21). -/
inductive EngState where
  | disconnected
  | connecting
  | ready
deriving DecidableEq, Repr

/-- The position in the initialization state machine (R22): a state is named after the command whose transfer has
been completed when it is entered. -/
inductive InitState where
  | uninitialized
  | force8bit1
  | force8bit2
  | force8bit3
  | switch4bit
  | functionSet
  | displayOff
  | clearDisplay
  | entryMode
  | displayOn
  | initReady
deriving DecidableEq, Repr

/-- What the machine does to the outside, in order. The port trace of R10 is the `write` and `delay` entries; the
opening and the closing of the Port (R32, R56) are recorded beside them. -/
inductive Event where
  /-- The Port opened (R31, R131): its cache is `PORT_INIT` from here on. -/
  | opened
  /-- One attempted transport byte write with the oracle's answer (R10, R51, R58). -/
  | write (value : Byte) (ok : Bool)
  /-- The engine waits at least this many microseconds, `T_INIT` (R133). -/
  | delay (atLeast : Nat)
  /-- The Port released its transport handle (R56). -/
  | closed
deriving DecidableEq, Repr

/-- Bytes by address, in one canonical form: addresses strictly rising, no byte equal to what an unlisted address
reads as. -/
abbrev Memory := List Host.Cell

/-- One controller as the reference sink has it (R38 (b), R75): its bus-width mode, its nibble phase, its address
counter, its mode bits (R87: N, F; D, C, B; I/D, S), its DDRAM and CGRAM (R50). -/
structure Lcd where
  /-- 4-bit mode (DL = 0, R87, R88). -/
  fourBit   : Bool
  /-- The high nibble latched and waiting for its low nibble (R75). -/
  pending   : Option Nibble
  /-- N: 2 lines (R87). -/
  twoLine   : Bool
  /-- F: the larger font (R87: F=0 is 5×8). -/
  largeFont : Bool
  /-- D: display on (R87). -/
  displayOn : Bool
  /-- C: cursor on (R87). -/
  cursorOn  : Bool
  /-- B: blink on (R87). -/
  blinkOn   : Bool
  /-- I/D: the address counter increments (R62, R87). -/
  increment : Bool
  /-- S: display shift with a data write (R87). -/
  shiftOn   : Bool
  /-- The address counter (R60 to R62, R75). -/
  addr      : AddrCounter
  /-- Character codes by 7-bit address (R50, R60). -/
  ddram     : Memory
  /-- Glyph rows by 6-bit address (R50, R61). -/
  cgram     : Memory
deriving DecidableEq, Repr

/-- A controller at power-on. The spec keeps it outside the machine (R37, R38); PRESUMED (unsafe;
notes/assumptions/8.md): the HD44780's own power-on state. -/
def Lcd.powerOn : Lcd :=
  { fourBit := false, pending := none, twoLine := false, largeFont := false, displayOn := false,
    cursorOn := false, blinkOn := false, increment := true, shiftOn := false, addr := .ddram 0,
    ddram := [], cgram := [] }

/-- The machine's state. -/
structure State where
  /-- The parameter set the machine was built with (R6, R28, R29); no operation writes it. -/
  cfg       : Params
  /-- `ENG_STATE` (R20, R21). -/
  engState  : EngState
  /-- `INIT_STATE` (R20, R22). -/
  initState : InitState
  /-- `ACTIVE` (R20, R23). -/
  active    : Controller
  /-- `RS` (R20, R24): 0x00 or `BIT_RS`. -/
  rs        : Byte
  /-- `DW` (R20, R25). -/
  dw        : Bool
  /-- `ERR` (R20, R30). -/
  err       : Bool
  /-- `CACHED` (R20, R31), of no meaning while `opened` is false (R32). -/
  cached    : Byte
  /-- `OPEN` (R20, R32). -/
  opened    : Bool
  /-- The host's bytes that the engine has not accepted yet, first to arrive first (R81). -/
  hostIn    : List HostByte
  /-- The result channel: the bytes returned so far, oldest first (R84, R10 (b)). -/
  results   : List Byte
  /-- The transport oracle's answers to the next transport writes, next first (R9, R57); when the list is empty the
  answer is the free value `Config.transportAnswer` (notes/assumptions/2.md). The model's own field. -/
  oracle    : List Bool
  /-- The count free values are drawn at. The model's own field (notes/assumptions/5.md). -/
  drawn     : Nat
  /-- What the machine has done to the outside so far, oldest first (R10 (a)). -/
  log       : List Event
  /-- The reference sink of controller 1 (R75). -/
  lcd1      : Lcd
  /-- The reference sink of controller 2 (R75); it exists only on dual geometry (R50). -/
  lcd2      : Lcd
deriving DecidableEq, Repr

/-- Reset of the engine built with the parameter set `p` (R37, R220) beside controllers that stand at `l1` and `l2`: "the
LCD controllers are not reset by the engine's reset; they keep their own state" (R221). `RS`, `ACTIVE`, `DW`, `ERR` are
R37's values; `CACHED` has "no value while OPEN is false": DESIGN CHOICE (notes/assumptions/7.md), the `PORT_INIT` it
will have. -/
def State.resetBeside (p : Params) (l1 l2 : Lcd) : State :=
  { cfg := p, engState := .disconnected, initState := .uninitialized, active := .one,
    rs := 1#8 <<< p.pins.rs, dw := false, err := false, cached := p.portInit, opened := false,
    hostIn := [], results := [], oracle := [], drawn := 0, log := [],
    lcd1 := l1, lcd2 := l2 }

/-- Reset at power-on of the whole board: the engine's reset beside controllers that have just powered on (PRESUMED,
notes/assumptions/8.md). The engine's reset alone is `resetEngine`. -/
def State.resetWith (p : Params) : State := State.resetBeside p Lcd.powerOn Lcd.powerOn

/-- The machine right after reset (R37, R220), built with the parameter set of notes/assumptions/1.md. -/
def State.reset : State := State.resetWith Config.params

/-- The machine never faults: no error transfers control or stops the engine (spec/60_exceptions.md R205); each of
the four error kinds is a no-op, a default, the sticky `ERR` bit, or a refusal at construction (R200, R214). So this
type has no constructor. -/
inductive Fault where
deriving DecidableEq, Repr

/-- Why a step is refused. -/
inductive Refusal where
  /-- Raised by an arm of `exec` for an instruction without a meaning; no arm raises it. Safe: the run stops. -/
  | notModelled (mnemonic : String)
  /-- ConfigurationError (R204): the parameter set is not well-formed (R7), so "the machine does not exist". Raised by
  `step`, whatever instruction comes. Safe: the run stops before its first operation. -/
  | configurationError
deriving DecidableEq, Repr

end Sys2Proof.Machine
end

