-- ==== Sys2Proof/Machine/Flags.lean ====
section
/-! DEFINITION. The status bits and codes: the sticky `ERR` (spec/10_state.md R30), the numeric encodings of the state
registers (R21, R22, R23), and the error kinds with their numbers (spec/60_exceptions.md R200). -/
namespace Sys2Proof.Machine

/-- "note TransportFailure": `ERR` is set when a Port call made by the engine returns false (R30, R110, R201); it is
sticky. -/
def noteResult (ok : Bool) (s : State) : State := { s with err := s.err || !ok }

/-- `ERR <- false`, by CONNECT (R30, R131). -/
def clearErr (s : State) : State := { s with err := false }

/-- The `ERR` status line the host may read at any time (R84, R235). -/
def errLine (s : State) : Bool := s.err

/-- DISCONNECTED = 0, CONNECTING = 1, READY = 2; "the value 3 is never taken" (R21). -/
def engStateCode (e : EngState) : BitVec 2 :=
  match e with
  | .disconnected => 0
  | .connecting => 1
  | .ready => 2

/-- UNINITIALIZED = 0 up to INIT_READY = 10 (R22). -/
def initStateCode (i : InitState) : BitVec 4 :=
  match i with
  | .uninitialized => 0
  | .force8bit1 => 1
  | .force8bit2 => 2
  | .force8bit3 => 3
  | .switch4bit => 4
  | .functionSet => 5
  | .displayOff => 6
  | .clearDisplay => 7
  | .entryMode => 8
  | .displayOn => 9
  | .initReady => 10

/-- `ACTIVE` as it is stored: "0 means controller 1, 1 means controller 2" (R23). -/
def activeCode (c : Controller) : BitVec 1 :=
  match c with
  | .one => 0
  | .two => 1

/-- The error taxonomy (R200). No code is ever delivered to the host. -/
inductive ErrorKind where
  | transportFailure
  | invalidLineNumber
  | notReady
  | configurationError
deriving DecidableEq, Repr

/-- The numbers of R200's table. -/
def errorCode (k : ErrorKind) : Nat :=
  match k with
  | .transportFailure => 1
  | .invalidLineNumber => 2
  | .notReady => 3
  | .configurationError => 4

end Sys2Proof.Machine
end

