-- ==== Sys2Proof/Machine/Memory.lean ====
section
/-! DEFINITION. The controllers' memories (spec/20_memory.md R50, R60, R61): reading and writing one byte, and the
canonical form. -/
namespace Sys2Proof.Machine

/-- The two address spaces behind a controller (R50). -/
inductive Space where
  | ddram
  | cgram
deriving DecidableEq, Repr

/-- What an address that is not listed reads as. DDRAM: the space code, which is what the clear command leaves
(PRESUMED, notes/assumptions/12.md). CGRAM: 0x00 (DESIGN CHOICE, unsafe, notes/assumptions/13.md): a controller's CGRAM
at power-on is outside the spec. -/
def unlisted (sp : Space) : Byte :=
  match sp with
  | .ddram => 0x20
  | .cgram => 0x00

/-- How many addresses the space has: 7-bit and 6-bit addresses (R50). -/
def spaceSize (sp : Space) : Nat :=
  match sp with
  | .ddram => 128
  | .cgram => 64

/-- Read the byte at address `a`. -/
def Memory.read (sp : Space) (m : Memory) (a : Nat) : Byte :=
  match m with
  | [] => unlisted sp
  | (k, v) :: rest => if k = a then v else Memory.read sp rest a

/-- Remove the entry at address `a`. -/
def Memory.remove (m : Memory) (a : Nat) : Memory :=
  match m with
  | [] => []
  | (k, v) :: rest => if k = a then rest else (k, v) :: Memory.remove rest a

/-- Put an entry at address `a`, in its place in the order. -/
def Memory.insert (m : Memory) (a : Nat) (b : Byte) : Memory :=
  match m with
  | [] => [(a, b)]
  | (k, v) :: rest =>
    if a < k then (a, b) :: (k, v) :: rest
    else if a = k then (a, b) :: rest
    else (k, v) :: Memory.insert rest a b

/-- Write byte `b` at address `a`, keeping the canonical form. -/
def Memory.write (sp : Space) (m : Memory) (a : Nat) (b : Byte) : Memory :=
  if b = unlisted sp then Memory.remove m a else Memory.insert m a b

/-- The canonical form of a memory whose addresses all lie in `lo .. hi-1`: strictly rising, no byte equal to the
unlisted one. -/
def Memory.wfFrom (sp : Space) (hi lo : Nat) (m : Memory) : Bool :=
  match m with
  | [] => true
  | (k, v) :: rest => decide (lo ≤ k) && decide (k < hi) && (v != unlisted sp) && Memory.wfFrom sp hi (k + 1) rest

/-- The canonical form of a memory of space `sp`. -/
def Memory.wf (sp : Space) (m : Memory) : Bool := Memory.wfFrom sp (spaceSize sp) 0 m

/-- Write bytes at consecutive addresses from `a` on. -/
def Memory.writeAll (sp : Space) (m : Memory) (a : Nat) (bytes : List Byte) : Memory :=
  match bytes with
  | [] => m
  | b :: rest => Memory.writeAll sp (Memory.write sp m a b) (a + 1) rest

end Sys2Proof.Machine
end

