-- ==== Sys2Proof/Machine/Operands.lean ====
section
/-! DEFINITION. Everything computed from the parameter set and an operand: bit values and masks (spec/00_scope.md R8,
spec/10_state.md R26, R27), `dbus` (spec/20_memory.md R64), the well-formedness of a parameter set (R7), `lineAddr`
(R68), the bar string and the glyphs (spec/43_pseudo_ops.md R182, R183), and the levels a port byte carries (R59, R74). -/
namespace Sys2Proof.Machine

/-! ## Bit values and masks -/

/-- `1 << PIN`, truncated to 8 bits (R8, R11). -/
def pinBit (pin : Nat) : Byte := 1#8 <<< pin

/-- `BIT_S` of an optional signal: 0x00 when it is absent (R8). -/
def optionalBit (pin : Option Nat) : Byte :=
  match pin with
  | none => 0#8
  | some i => pinBit i

/-- `BIT_RS` (R8). -/
def bitRs (p : Params) : Byte := pinBit p.pins.rs

/-- `BIT_RW` (R8). -/
def bitRw (p : Params) : Byte := pinBit p.pins.rw

/-- `BIT_E(c)` (R8). -/
def bitE (p : Params) (c : Controller) : Byte :=
  match c with
  | .one => pinBit p.pins.e1
  | .two => optionalBit p.pins.e2

/-- `controlMask = ~(E|RS|RW)` with the Enable bit of controller `c` (R26). -/
def controlMask (p : Params) (c : Controller) : Byte := ~~~(bitE p c ||| bitRs p ||| bitRw p)

/-- `dataMask = ~(D4|D5|D6|D7)` (R27). -/
def dataMask (p : Params) : Byte :=
  ~~~(pinBit p.pins.d4 ||| pinBit p.pins.d5 ||| pinBit p.pins.d6 ||| pinBit p.pins.d7)

/-- `dbus(n)`: nibble bit `k` on data line `D(4+k)` (R64). -/
def dbus (p : Params) (n : Nibble) : Byte :=
  (if n.getLsbD 0 then pinBit p.pins.d4 else 0) ||| (if n.getLsbD 1 then pinBit p.pins.d5 else 0) |||
  (if n.getLsbD 2 then pinBit p.pins.d6 else 0) ||| (if n.getLsbD 3 then pinBit p.pins.d7 else 0)

/-- The high half of a byte, bits 7:4 (R63). -/
def highNibble (v : Byte) : Nibble := v.extractLsb' 4 4

/-- The low half of a byte, bits 3:0 (R63). -/
def lowNibble (v : Byte) : Nibble := v.extractLsb' 0 4

/-- `((CACHED & mask) | (data & ~mask)) & 0xFF` (R51). -/
def mergeByte (mask old data : Byte) : Byte := (old &&& mask) ||| (data &&& ~~~mask)

/-! ## Levels on a port byte -/

/-- The Enable of `c` falls between two port bytes (R74): the level is 1 before and 0 after. -/
def enableFalls (p : Params) (c : Controller) (before after : Byte) : Bool :=
  (before &&& bitE p c != 0) && (after &&& bitE p c == 0)

/-- The Register-Select level of a port byte (R59, R74). -/
def rsLevel (p : Params) (v : Byte) : Bool := v &&& bitRs p != 0

/-- The nibble on the data lines of a port byte: `n[k]` = bit `PIN_D(4+k)` (R74). -/
def dataNibble (p : Params) (v : Byte) : Nibble :=
  BitVec.ofBool (v.getLsbD p.pins.d7) ++ BitVec.ofBool (v.getLsbD p.pins.d6) ++
  BitVec.ofBool (v.getLsbD p.pins.d5) ++ BitVec.ofBool (v.getLsbD p.pins.d4)

/-! ## The geometry -/

/-- `DUAL`: "derived isDualController = width*height > 80" (R6, R29). -/
def dual (p : Params) : Bool := decide (80 < p.width * p.height)

/-- The pin indices of the signals that are present (R7). -/
def presentPins (m : PinMap) : List Nat :=
  [m.e1, m.rs, m.rw, m.d4, m.d5, m.d6, m.d7] ++ m.e2.toList ++ m.bl.toList

/-- No index occurs twice. -/
def allDistinct (l : List Nat) : Bool :=
  match l with
  | [] => true
  | a :: rest => !rest.contains a && allDistinct rest

/-- A parameter set is well-formed (R7, with the ranges of R6): pin indices in 0..7 and pairwise distinct, Enable-2
present on dual geometry, `WIDTH` in 1..40, `HEIGHT` in {1,2,4}, `T_INIT` at least 2 ms. -/
def wellFormedParams (p : Params) : Bool :=
  (presentPins p.pins).all (fun i => decide (i < 8)) && allDistinct (presentPins p.pins) &&
  (!dual p || p.pins.e2.isSome) &&
  decide (1 ≤ p.width) && decide (p.width ≤ 40) &&
  (p.height == 1 || p.height == 2 || p.height == 4) && decide (2000 ≤ p.tInit)

/-- `valid(line) = (1 ≤ line ≤ HEIGHT and line ≤ 4)` (R68, R202). -/
def validLine (p : Params) (line : Byte) : Bool :=
  decide (1 ≤ line.toNat) && decide (line.toNat ≤ p.height) && decide (line.toNat ≤ 4)

/-- The controller of rows 3 and 4: 2 on dual geometry, else 1 (R68). -/
def controller34 (p : Params) : Controller := if dual p then .two else .one

/-- `lineAddr(line)` (R68): the controller and the DDRAM address; line 1's for an invalid line. -/
def lineAddr (p : Params) (line : Byte) : Controller × BitVec 7 :=
  if validLine p line then
    if line.toNat = 1 then (.one, 0x00)
    else if line.toNat = 2 then (.one, 0x40)
    else if line.toNat = 3 then (controller34 p, BitVec.ofNat 7 (0x00 + p.width))
    else (controller34 p, BitVec.ofNat 7 (0x40 + p.width))
  else (.one, 0x00)

/-! ## Characters and glyphs -/

/-- The space character's code (R152). -/
def spaceCode : Byte := 0x20

/-- `[0x20] * WIDTH` (R152). -/
def spaces (p : Params) : List Byte := List.replicate p.width spaceCode

/-- `glyph(k) = [(0x1F << (5-k)) & 0x1F] * 8` (R182). -/
def glyph (k : Nat) : List Byte := List.replicate 8 ((0x1F#8 <<< (5 - k)) &&& 0x1F)

/-- The CGRAM address `8*k` of slot `k` (R61, R181). -/
def slotAddress (k : Nat) : BitVec 6 := BitVec.ofNat 6 (8 * k)

/-- `barString(v, W)` (R183). -/
def barString (v width : Nat) : List Byte :=
  if 5 * width ≤ v then List.replicate width 0x05
  else
    let partialGlyph : List Byte := if v % 5 = 0 then [] else [BitVec.ofNat 8 (v % 5)]
    List.replicate (v / 5) 0x05 ++ partialGlyph ++ List.replicate (width - v / 5 - partialGlyph.length) 0x00

end Sys2Proof.Machine
end

