-- ==== Sys2Proof/Machine/Lcd.lean ====
section
/-! DEFINITION. The reference sink of spec/20_memory.md R75: what a controller makes of the nibbles it latches (R74).
Nothing in the engine depends on it. Commands act by their bit fields as spec/30_encoding.md R86, R87, R88 give them. -/
namespace Sys2Proof.Machine

/-- The address counter one step on (R62, R75): up when I/D = 1, down when I/D = 0 (DEDUCED from R87's "I/D=1
(increment)", notes/assumptions/11.md). Beyond the last or first address the spec states no result: a free value. That the counter
then still points into the same memory, and that the value is one and the same for both controllers and every time, is
the model's choice (DESIGN CHOICE, unsafe, notes/assumptions/29.md). -/
def nextAddr (increment : Bool) (a : AddrCounter) : AddrCounter :=
  match a with
  | .ddram x =>
    if increment then (if x = 0x7F then .ddram (Config.ddramWrap true) else .ddram (x + 1))
    else (if x = 0x00 then .ddram (Config.ddramWrap false) else .ddram (x - 1))
  | .cgram x =>
    if increment then (if x = 0x3F then .cgram (Config.cgramWrap true) else .cgram (x + 1))
    else (if x = 0x00 then .cgram (Config.cgramWrap false) else .cgram (x - 1))

/-- A data byte: written at the address counter, which then steps on (R75). -/
def lcdData (d : Byte) (l : Lcd) : Lcd :=
  match l.addr with
  | .ddram a => { l with ddram := Memory.write .ddram l.ddram a.toNat d, addr := nextAddr l.increment l.addr }
  | .cgram a => { l with cgram := Memory.write .cgram l.cgram a.toNat d, addr := nextAddr l.increment l.addr }

/-- The data bytes `ds`, in order. -/
def lcdDataAll (ds : List Byte) (l : Lcd) : Lcd := ds.foldl (fun l d => lcdData d l) l

/-- "`1aaaaaaa` sets the address counter to DDRAM address `a`" (R75, R60). -/
def lcdSetDdram (a : BitVec 7) (l : Lcd) : Lcd := { l with addr := .ddram a }

/-- "`01aaaaaa` sets it to CGRAM address `a`" (R75, R61). -/
def lcdSetCgram (a : BitVec 6) (l : Lcd) : Lcd := { l with addr := .cgram a }

/-- `001 DL N F 00` (R87, R88): DL = 0 is 4-bit mode. A change of width starts a fresh byte. -/
def lcdFunctionSet (dl n f : Bool) (l : Lcd) : Lcd :=
  { l with fourBit := !dl, pending := none, twoLine := n, largeFont := f }

/-- `00001 D C B` (R87). -/
def lcdDisplayControl (d c b : Bool) (l : Lcd) : Lcd := { l with displayOn := d, cursorOn := c, blinkOn := b }

/-- `000001 I/D S` (R87). -/
def lcdEntryMode (id s : Bool) (l : Lcd) : Lcd := { l with increment := id, shiftOn := s }

/-- "`00000001` clears the DDRAM and homes the counter" (R75). -/
def lcdClear (l : Lcd) : Lcd := { l with ddram := [], addr := .ddram 0 }

/-- A command byte that the engine never sends and the spec gives no effect (R91: return home, cursor/display shift;
and 0x00): the address counter is a free value afterwards (notes/assumptions/10.md). -/
def lcdStray (free : AddrCounter) (l : Lcd) : Lcd := { l with addr := free }

/-- A command byte of high nibble `hi` and low nibble `lo`, decoded from its highest set bit down (R86, R87). -/
def lcdCommand (free : AddrCounter) (hi lo : Nibble) (l : Lcd) : Lcd :=
  if hi.getLsbD 3 then lcdSetDdram (hi.extractLsb' 0 3 ++ lo) l
  else if hi.getLsbD 2 then lcdSetCgram (hi.extractLsb' 0 2 ++ lo) l
  else if hi.getLsbD 1 then lcdFunctionSet (hi.getLsbD 0) (lo.getLsbD 3) (lo.getLsbD 2) l
  else if hi.getLsbD 0 then lcdStray free l
  else if lo.getLsbD 3 then lcdDisplayControl (lo.getLsbD 2) (lo.getLsbD 1) (lo.getLsbD 0) l
  else if lo.getLsbD 2 then lcdEntryMode (lo.getLsbD 1) (lo.getLsbD 0) l
  else if lo.getLsbD 1 then lcdStray free l
  else if lo.getLsbD 0 then lcdClear l
  else lcdStray free l

/-- A whole byte: a command with RS low, data with RS high (R75). -/
def lcdReceive (free : AddrCounter) (rs : Bool) (hi lo : Nibble) (l : Lcd) : Lcd :=
  if rs then lcdData (hi ++ lo) l else lcdCommand free hi lo l

/-- One latched nibble (R74). In 4-bit mode consecutive latches pair into bytes, the high nibble first (R75); in 8-bit
mode each latch is a whole byte whose low half, undriven by the engine (R88), is the free value `undriven`. -/
def lcdLatch (undriven : Nibble) (free : AddrCounter) (rs : Bool) (n : Nibble) (l : Lcd) : Lcd :=
  if l.fourBit then
    match l.pending with
    | none => { l with pending := some n }
    | some hi => lcdReceive free rs hi n { l with pending := none }
  else lcdReceive free rs n undriven { l with pending := none }

/-- What controller `c` makes of the port lines going from `before` to `after`: it latches the nibble on the data
lines at the falling edge of its own Enable (R74). -/
def lcdSee (p : Params) (c : Controller) (drawn : Nat) (before after : Byte) (l : Lcd) : Lcd :=
  if enableFalls p c before after then
    lcdLatch (Config.undrivenNibble c drawn) (Config.strayAddress c drawn) (rsLevel p after) (dataNibble p after) l
  else l

end Sys2Proof.Machine
end

