-- ==== Sys2Proof/Machine/Ops.lean ====
section
/-! DEFINITION. The shared operations: register updates, the Port (spec/20_memory.md R51 to R58), the transfer
primitive, the command/data multiplexer and the controller selector (spec/40_transfer.md R110 to R115), the delay
(spec/41_init_connect.md R133). There is no operation that takes an exception: the engine has no trap mechanism
(spec/60_exceptions.md R205); what an error does is `noteResult`. -/
namespace Sys2Proof.Machine

/-! ## Register updates -/

/-- `ENG_STATE <- e` (R21). -/
def setEngState (e : EngState) (s : State) : State := { s with engState := e }

/-- `INIT_STATE <- i` (R22). -/
def setInitState (i : InitState) (s : State) : State := { s with initState := i }

/-- `RS <- v` (R24). -/
def setRs (v : Byte) (s : State) : State := { s with rs := v }

/-- `DW <- b` (R25). -/
def setDw (b : Bool) (s : State) : State := { s with dw := b }

/-- `select(c)`: `ACTIVE <- c`, no Port write (R115). -/
def select (c : Controller) (s : State) : State := { s with active := c }

/-- Return one byte on the result channel (R84). -/
def returnByte (b : Byte) (s : State) : State := { s with results := s.results ++ [b] }

/-- Record what the machine does to the outside (R10). -/
def record (e : Event) (s : State) : State := { s with log := s.log ++ [e] }

/-! ## The transport oracle -/

/-- The oracle's answer to the next transport access (R9, R57): the next listed one, a free value when none is
listed (notes/assumptions/2.md). -/
def nextAnswer (s : State) : Bool :=
  match s.oracle with
  | [] => Config.transportAnswer s.drawn
  | ok :: _ => ok

/-- The oracle has answered one access. -/
def takeAnswer (s : State) : State := { s with oracle := s.oracle.tail, drawn := s.drawn + 1 }

/-! ## The Port -/

/-- "commit `cached = newValue`" (R51); the lines now carry `v`, and each controller sees the change (R74). -/
def commit (v : Byte) (s : State) : State :=
  { s with
    cached := v
    lcd1 := lcdSee s.cfg .one s.drawn s.cached v s.lcd1
    lcd2 := lcdSee s.cfg .two s.drawn s.cached v s.lcd2 }

/-- `maskedWrite(mask, data)` (R51, R57, R58): exactly one attempted transport write, also of an unchanged value;
commit on success, nothing on failure. A closed Port makes no transport write and returns false (R32; DEDUCED,
notes/assumptions/14.md). -/
def maskedWrite (mask data : Byte) (s : State) : Bool × State :=
  if s.opened then
    if nextAnswer s then
      (true, commit (mergeByte mask s.cached data)
        (record (.write (mergeByte mask s.cached data) true) (takeAnswer s)))
    else (false, record (.write (mergeByte mask s.cached data) false) (takeAnswer s))
  else (false, s)

/-- `setPin(pin, state)` (R53). -/
def setPin (pin : Nat) (level : Bool) (s : State) : Bool × State :=
  maskedWrite (~~~(pinBit pin)) (if level then pinBit pin else 0#8) s

/-- `readCachedValue()`: "returns `cached`, no transport activity" (R54). The engine never calls it. -/
def readCachedValue (s : State) : Byte := s.cached

/-- `readInputByte()` (R55): one transport read, of the physical line levels, any value (U10), or a "zero-valued read" on
failure. The engine never calls it (R117). A closed Port makes no transport access, so it draws no answer and reads as
zero: the model's choice (DEDUCED, notes/assumptions/4.md). -/
def readInputByte (s : State) : Byte × State :=
  if s.opened then
    if nextAnswer s then (Config.lineLevels s.drawn, takeAnswer s) else (0#8, takeAnswer s)
  else (0#8, s)

/-- The Port opens: `OPEN <- true ; CACHED <- PORT_INIT` (R31, R32, R131). -/
def openPort (s : State) : State :=
  record .opened { s with opened := true, cached := s.cfg.portInit }

/-- `close()` (R56): clears `OPEN`, idempotent, no transport write, failures swallowed; `CACHED` "loses its meaning"
(R135): a free value (notes/assumptions/3.md). -/
def closePort (s : State) : State :=
  if s.opened then
    record .closed { s with opened := false, cached := Config.closedCache s.drawn, drawn := s.drawn + 1 }
  else s

/-! ## Transfers -/

/-- `pw(mask, data)` (R110): a masked write whose failure is noted in `ERR` and otherwise ignored. -/
def pw (mask data : Byte) (s : State) : State :=
  match maskedWrite mask data s with
  | (ok, t) => noteResult ok t

/-- A control write on the active controller: E, RS and RW take the bits of `data`, the rest is kept (R26). -/
def pwControl (data : Byte) (s : State) : State := pw (controlMask s.cfg s.active) data s

/-- `strobe(n)` (R111): Enable high, the nibble on the data lines, Enable low. -/
def strobe (n : Nibble) (s : State) : State :=
  pwControl s.rs (pw (dataMask s.cfg) (dbus s.cfg n) (pwControl (s.rs ||| bitE s.cfg s.active) s))

/-- `sendByte(v)` (R112): step 1, the high nibble, and with `DW` the low nibble. -/
def sendByte (v : Byte) (s : State) : State :=
  if s.dw then strobe (lowNibble v) (strobe (highNibble v) (pwControl s.rs s))
  else strobe (highNibble v) (pwControl s.rs s)

/-- `writeCommand(c)` (R113): RS low for one transfer, restored in the register without a Port write. -/
def writeCommand (c : Byte) (s : State) : State :=
  setRs (bitRs s.cfg) (sendByte c (setRs 0#8 s))

/-- `writeData(d)` (R114). -/
def writeData (d : Byte) (s : State) : State := sendByte d s

/-- The data bytes `ds`, "in order" (R65). -/
def writeAllData (ds : List Byte) (s : State) : State := ds.foldl (fun t d => writeData d t) s

/-- `delay(T_INIT)` (R133): no Port write, no state change; the marker `DELAY` in the trace. -/
def delayInit (s : State) : State := record (.delay s.cfg.tInit) s

/-- The READY gate (R150): a gated-out operation is a no-op. -/
def whenReady (f : State → State) (s : State) : State := if s.engState = .ready then f s else s

end Sys2Proof.Machine
end

