-- ==== Sys2Proof/Machine/Connection.lean ====
section
/-! DEFINITION. The engine's reset (spec/70_reset_and_hazards.md R220, R221), CONNECT, DISCONNECT and the initialization
FSM (spec/41_init_connect.md). -/
namespace Sys2Proof.Machine

/-- Reset of the engine of a running machine ("an external reset line", R220): every register at R37's value, no Port
write; the controllers "keep their own state" (R221). The host's two channels and the record of what has happened are
not the engine's and stay (DESIGN CHOICE, notes/assumptions/30.md). -/
def resetEngine (s : State) : State :=
  { State.resetBeside s.cfg s.lcd1 s.lcd2 with
    hostIn := s.hostIn, results := s.results, oracle := s.oracle, drawn := s.drawn, log := s.log }

/-- The four handshake transfers of an init run and the delay after the first (R132). -/
def initHandshake (s : State) : State :=
  let s := setInitState .force8bit1 (writeCommand (nibbleByte force8bitNibble) s)
  let s := delayInit s
  let s := setInitState .force8bit2 (writeCommand (nibbleByte force8bitNibble) s)
  let s := setInitState .force8bit3 (writeCommand (nibbleByte force8bitNibble) s)
  setDw true (setInitState .switch4bit (writeCommand (nibbleByte switch4bitNibble) s))

/-- The five mode commands of an init run (R132, R87). -/
def initModes (s : State) : State :=
  let s := setInitState .functionSet (writeCommand functionSetByte s)
  let s := setInitState .displayOff (writeCommand displayOffByte s)
  let s := setInitState .clearDisplay (writeCommand clearDisplayByte s)
  let s := setInitState .entryMode (writeCommand entryModeByte s)
  setInitState .displayOn (writeCommand displayOnByte s)

/-- `initSequence()` on the active controller (R132). -/
def initSequence (s : State) : State :=
  setInitState .initReady (initModes (initHandshake (setDw false (setInitState .uninitialized s))))

/-- One transition of the init FSM, as R137's table has it: unconditional, none out of INIT_READY. -/
def initTransition (s : State) : State :=
  match s.initState with
  | .uninitialized => setInitState .force8bit1 (delayInit (writeCommand 0x30 s))
  | .force8bit1 => setInitState .force8bit2 (writeCommand 0x30 s)
  | .force8bit2 => setInitState .force8bit3 (writeCommand 0x30 s)
  | .force8bit3 => setInitState .switch4bit (setDw true (writeCommand 0x20 s))
  | .switch4bit => setInitState .functionSet (writeCommand 0x28 s)
  | .functionSet => setInitState .displayOff (writeCommand 0x08 s)
  | .displayOff => setInitState .clearDisplay (writeCommand 0x01 s)
  | .clearDisplay => setInitState .entryMode (writeCommand 0x06 s)
  | .entryMode => setInitState .displayOn (writeCommand 0x0C s)
  | .displayOn => setInitState .initReady s
  | .initReady => s

/-- `n` transitions of the init FSM. -/
def initTransitions (n : Nat) (s : State) : State :=
  match n with
  | 0 => s
  | k + 1 => initTransitions k (initTransition s)

/-- The init runs of a CONNECT: controller 1, and on dual geometry controller 2 and back (R131, R134). -/
def initControllers (s : State) : State :=
  let t := initSequence s
  if dual s.cfg then select .one (initSequence (select .two t)) else t

/-- CONNECT out of DISCONNECTED (R131). -/
def connectNow (s : State) : State :=
  let s := setEngState .connecting s
  let s := clearErr (openPort s)
  let s := setRs (bitRs s.cfg) (select .one s)
  setEngState .ready (initControllers s)

/-- CONNECT (R131); it does nothing when `ENG_STATE` is not DISCONNECTED (R136). -/
def execConnect (s : State) : Host.Outcome State Fault Refusal :=
  .next (if s.engState = .disconnected then connectNow s else s)

/-- DISCONNECT from any state but DISCONNECTED (R135). -/
def disconnectNow (s : State) : State :=
  setDw false (setInitState .uninitialized (setEngState .disconnected (closePort s)))

/-- DISCONNECT (R135), idempotent. -/
def execDisconnect (s : State) : Host.Outcome State Fault Refusal :=
  .next (if s.engState = .disconnected then s else disconnectNow s)

end Sys2Proof.Machine
end

