-- ==== Sys2Proof/Machine/LcdTransfer.lean ====
section
/-! DEFINITION. The LCD rows of the opcode table (spec/30_encoding.md R80 layer 2, R86 to R88, R114) as what the engine
does for each: one transfer to the active controller, a command byte or nibble through `writeCommand` (R113), a data
byte through `writeData` (R114). Every host operation is made of these transfers. No host frame decodes to one of
them (notes/assumptions/6.md). -/
namespace Sys2Proof.Machine

/-- A transfer is made while the Port is open; "while OPEN is false ... no Port write is made" (R32; DEDUCED,
notes/assumptions/14.md). -/
def whenOpen (f : State → State) (s : State) : State := if s.opened then f s else s

/-- LCD_SET_DDRAM_ADDR (R86). -/
def execLcdSetDdramAddr (a : BitVec 7) (s : State) : Host.Outcome State Fault Refusal :=
  .next (whenOpen (writeCommand (setDdramByte a)) s)

/-- LCD_SET_CGRAM_ADDR (R86). -/
def execLcdSetCgramAddr (a : BitVec 6) (s : State) : Host.Outcome State Fault Refusal :=
  .next (whenOpen (writeCommand (setCgramByte a)) s)

/-- LCD_FUNCTION_SET_4BIT_2LINE (R87). -/
def execLcdFunctionSet (s : State) : Host.Outcome State Fault Refusal :=
  .next (whenOpen (writeCommand functionSetByte) s)

/-- LCD_DISPLAY_OFF (R87). -/
def execLcdDisplayOff (s : State) : Host.Outcome State Fault Refusal :=
  .next (whenOpen (writeCommand displayOffByte) s)

/-- LCD_CLEAR_DISPLAY (R87). -/
def execLcdClearDisplay (s : State) : Host.Outcome State Fault Refusal :=
  .next (whenOpen (writeCommand clearDisplayByte) s)

/-- LCD_ENTRY_MODE_INCREMENT (R87). -/
def execLcdEntryMode (s : State) : Host.Outcome State Fault Refusal :=
  .next (whenOpen (writeCommand entryModeByte) s)

/-- LCD_DISPLAY_ON_NOCURSOR_NOBLINK (R87). -/
def execLcdDisplayOn (s : State) : Host.Outcome State Fault Refusal :=
  .next (whenOpen (writeCommand displayOnByte) s)

/-- LCD_FORCE_8BIT (R88): `sendByte(0x30)` with RS low; one nibble while `DW` is false. -/
def execLcdForce8bit (s : State) : Host.Outcome State Fault Refusal :=
  .next (whenOpen (writeCommand (nibbleByte force8bitNibble)) s)

/-- LCD_SWITCH_4BIT (R88, R137): `sendByte(0x20)` with RS low, "then `DW <- true`". -/
def execLcdSwitch4bit (s : State) : Host.Outcome State Fault Refusal :=
  .next (whenOpen (fun t => setDw true (writeCommand (nibbleByte switch4bitNibble) t)) s)

/-- LCD_DATA (R114). -/
def execLcdData (d : Byte) (s : State) : Host.Outcome State Fault Refusal :=
  .next (whenOpen (writeData d) s)

end Sys2Proof.Machine
end

