-- ==== Sys2Proof/Machine/Display.lean ====
section
/-! DEFINITION. The display operations, the queries, NOP and the reserved opcodes (spec/42_display_ops.md,
spec/30_encoding.md R85). -/
namespace Sys2Proof.Machine

/-- PRINT past the gate (R151): address command, then every character, on the line's controller. -/
def printNow (line : Byte) (text : List Byte) (s : State) : State :=
  let ca := lineAddr s.cfg line
  select .one (writeAllData text (writeCommand (setDdramByte ca.2) (select ca.1 s)))

/-- PRINT with its READY gate (R150, R151). -/
def printOp (line : Byte) (text : List Byte) (s : State) : State := whenReady (printNow line text) s

/-- PRINT (R151). -/
def execPrint (line : Byte) (text : List Byte) (s : State) : Host.Outcome State Fault Refusal :=
  .next (printOp line text s)

/-- CLEAR_LINE: PRINT of `WIDTH` spaces (R152). -/
def execClearLine (line : Byte) (s : State) : Host.Outcome State Fault Refusal :=
  .next (printOp line (spaces s.cfg) s)

/-- CLEAR_DISPLAY past the gate (R153): controller 1, and on dual geometry controller 2. -/
def clearDisplayNow (s : State) : State :=
  let t := writeCommand clearDisplayByte s
  if dual s.cfg then select .one (writeCommand clearDisplayByte (select .two t)) else t

/-- CLEAR_DISPLAY (R153). -/
def execClearDisplay (s : State) : Host.Outcome State Fault Refusal :=
  .next (whenReady clearDisplayNow s)

/-- One controller's share of SET_CGRAM (R154): address command, then the pattern's rows. -/
def programCgram (c : Controller) (address : BitVec 6) (pattern : List Byte) (s : State) : State :=
  writeAllData pattern (writeCommand (setCgramByte address) (select c s))

/-- SET_CGRAM past the gate (R154): controller 1 first. -/
def setCgramNow (address : BitVec 6) (pattern : List Byte) (s : State) : State :=
  let t := programCgram .one address pattern s
  select .one (if dual s.cfg then programCgram .two address pattern t else t)

/-- SET_CGRAM with its READY gate (R150, R154). -/
def setCgramOp (address : BitVec 6) (pattern : List Byte) (s : State) : State :=
  whenReady (setCgramNow address pattern) s

/-- SET_CGRAM (R154). -/
def execSetCgram (address : BitVec 6) (pattern : List Byte) (s : State) : Host.Outcome State Fault Refusal :=
  .next (setCgramOp address pattern s)

/-- BACKLIGHT past the gate (R155): one Port write that changes bit `PIN_BL` only; a silent no-op without the pin. -/
def backlightNow (enable : Bool) (s : State) : State :=
  match s.cfg.pins.bl with
  | none => s
  | some pin =>
    match setPin pin enable s with
    | (ok, t) => noteResult ok t

/-- BACKLIGHT (R155). -/
def execBacklight (enable : Bool) (s : State) : Host.Outcome State Fault Refusal :=
  .next (whenReady (backlightNow enable) s)

/-- HAS_BACKLIGHT (R156): 0x01 if `PIN_BL` is present, else 0x00; in every engine state. -/
def execHasBacklight (s : State) : Host.Outcome State Fault Refusal :=
  .next (returnByte (if s.cfg.pins.bl.isSome then 0x01 else 0x00) s)

/-- GET_WIDTH (R157). -/
def execGetWidth (s : State) : Host.Outcome State Fault Refusal :=
  .next (returnByte (BitVec.ofNat 8 s.cfg.width) s)

/-- GET_HEIGHT (R158). -/
def execGetHeight (s : State) : Host.Outcome State Fault Refusal :=
  .next (returnByte (BitVec.ofNat 8 s.cfg.height) s)

/-- NOP: no effect in any state (R159). -/
def execNop (s : State) : Host.Outcome State Fault Refusal := .next s

/-- A reserved opcode: no effect at all, like NOP, whichever it is (R85). -/
def execReserved (_opcode : Byte) (s : State) : Host.Outcome State Fault Refusal := .next s

end Sys2Proof.Machine
end

