-- ==== Sys2Proof/Machine/Pseudo.lean ====
section
/-! DEFINITION. The pseudo-operations: the auto-slot stub and the bar graph (spec/43_pseudo_ops.md). -/
namespace Sys2Proof.Machine

/-- SET_CGRAM_AUTO (R180): the stub. It returns 0x00 in every engine state and ignores the pattern. -/
def execSetCgramAuto (_pattern : List Byte) (s : State) : Host.Outcome State Fault Refusal :=
  .next (returnByte 0x00 s)

/-- INIT_BARGRAPH (R181): SET_CGRAM of glyph `k` at slot `k`, for `k` = 0 to 5 in ascending order. -/
def initBargraphOp (s : State) : State :=
  (List.range 6).foldl (fun t k => setCgramOp (slotAddress k) (glyph k) t) s

/-- INIT_BARGRAPH (R181). -/
def execInitBargraph (s : State) : Host.Outcome State Fault Refusal := .next (initBargraphOp s)

/-- BARGRAPH (R184): PRINT of the bar string over the whole row. -/
def execBargraph (line value : Byte) (s : State) : Host.Outcome State Fault Refusal :=
  .next (printOp line (barString value.toNat s.cfg.width) s)

end Sys2Proof.Machine
end

