-- ==== Sys2Proof/Machine/Dispatch.lean ====
section
/-! DEFINITION. One arm per instruction: what `exec` does with it. -/
namespace Sys2Proof.Machine

def exec (i : Instr) (s : State) : Host.Outcome State Fault Refusal :=
  match i with
  | .nop => Sys2Proof.Machine.execNop s
  | .connect => Sys2Proof.Machine.execConnect s
  | .disconnect => Sys2Proof.Machine.execDisconnect s
  | .print line text => Sys2Proof.Machine.execPrint line text s
  | .clearLine line => Sys2Proof.Machine.execClearLine line s
  | .clearDisplay => Sys2Proof.Machine.execClearDisplay s
  | .backlight enable => Sys2Proof.Machine.execBacklight enable s
  | .setCgram address pattern => Sys2Proof.Machine.execSetCgram address pattern s
  | .setCgramAuto pattern => Sys2Proof.Machine.execSetCgramAuto pattern s
  | .initBargraph => Sys2Proof.Machine.execInitBargraph s
  | .hasBacklight => Sys2Proof.Machine.execHasBacklight s
  | .getWidth => Sys2Proof.Machine.execGetWidth s
  | .getHeight => Sys2Proof.Machine.execGetHeight s
  | .bargraph line value => Sys2Proof.Machine.execBargraph line value s
  | .reserved opcode => Sys2Proof.Machine.execReserved opcode s
  | .lcdSetDdramAddr a => Sys2Proof.Machine.execLcdSetDdramAddr a s
  | .lcdSetCgramAddr a => Sys2Proof.Machine.execLcdSetCgramAddr a s
  | .lcdFunctionSet => Sys2Proof.Machine.execLcdFunctionSet s
  | .lcdDisplayOff => Sys2Proof.Machine.execLcdDisplayOff s
  | .lcdClearDisplay => Sys2Proof.Machine.execLcdClearDisplay s
  | .lcdEntryMode => Sys2Proof.Machine.execLcdEntryMode s
  | .lcdDisplayOn => Sys2Proof.Machine.execLcdDisplayOn s
  | .lcdForce8bit => Sys2Proof.Machine.execLcdForce8bit s
  | .lcdSwitch4bit => Sys2Proof.Machine.execLcdSwitch4bit s
  | .lcdData d => Sys2Proof.Machine.execLcdData d s

end Sys2Proof.Machine
end

