-- ==== Sys2Proof/Machine/Fetch.lean ====
section
/-! DEFINITION. How an operation reaches the engine (spec/30_encoding.md R81, R85) and how the machine is built
(spec/60_exceptions.md R204). The engine fetches nothing from memory (spec/10_state.md R34): it takes the next frame
off the host's byte stream. -/
namespace Sys2Proof.Machine

/-- What the idle engine finds on the host's byte stream. -/
inductive Acceptance where
  /-- No complete frame has arrived: the engine waits for a host operation (R81, R220). -/
  | idle
  /-- A malformed frame, "consumed and has no effect" (R85). -/
  | ignored (t : State)
  /-- An operation, its frame consumed (R81). -/
  | accepted (i : Instr) (t : State)
deriving DecidableEq, Repr

/-- Accept the next frame (R81, R85). -/
def accept (s : State) : Acceptance :=
  match takeFrame s.hostIn with
  | none => .idle
  | some (frame, rest) =>
    match decodeFrame frame with
    | .error _ => .ignored { s with hostIn := rest }
    | .ok i => .accepted i { s with hostIn := rest }

/-- The host puts a frame in front of the bytes the engine has not accepted yet. -/
def submitFirst (frame : List Byte) (s : State) : State := { s with hostIn := sendFrame frame ++ s.hostIn }

/-- The host sends a frame after the bytes it has sent already (R81: "in arrival order"). -/
def submit (frame : List Byte) (s : State) : State := { s with hostIn := s.hostIn ++ sendFrame frame }

/-- Building the machine with a parameter set: "an ill-formed one is refused at construction with
ConfigurationError" (R7, R204, R220). -/
def construct (p : Params) : Except ErrorKind State :=
  if wellFormedParams p then .ok (State.resetWith p) else .error .configurationError

end Sys2Proof.Machine
end

