-- ==== Sys2Proof/Machine/Step.lean ====
section
/-! DEFINITION. One step: one host operation, accepted and executed to completion (spec/10_state.md R34,
spec/30_encoding.md R81). -/
namespace Sys2Proof.Machine

/-- The machine exists only for a well-formed parameter set (R7, R204). It waits while no complete frame has arrived
(R220: "the first thing the engine does is wait for a host operation"). -/
def step (s : State) : Host.Outcome State Fault Refusal :=
  if wellFormedParams s.cfg then
    match accept s with
    | .idle => .next s
    | .ignored t => .next t
    | .accepted i t => exec i t
  else .refused .configurationError

/-- The state whose next step runs the instruction numbered `w` as spec/opcode_table.json numbers it: its frame stands
first in the host's byte stream. -/
def State.withFetchWord (s : State) (nbits w : Nat) : State := submitFirst (tableFrame nbits w) s

end Sys2Proof.Machine
end

