-- ==== Sys2Proof/Safety.lean ====
section
/-! DEFINITION. The terms claims are stated in: the port trace and its counts (spec/00_scope.md R10,
spec/40_transfer.md R116), the latch list (spec/20_memory.md R74), the invariants between operations
(spec/10_state.md R36), what a controller is after its init (spec/70_reset_and_hazards.md R222), frames, and the error
conditions of an operation (spec/60_exceptions.md R200, R207). -/
namespace Sys2Proof.Machine

/-! ## The port trace -/

/-- An attempted transport write, failed or not (R10, R116: "failed writes count"). -/
def isWrite (e : Event) : Bool :=
  match e with
  | .opened => false
  | .write _ _ => true
  | .delay _ => false
  | .closed => false

/-- An attempted transport write that the oracle failed. -/
def isFailedWrite (e : Event) : Bool :=
  match e with
  | .opened => false
  | .write _ ok => !ok
  | .delay _ => false
  | .closed => false

/-- The `DELAY` marker (R133). -/
def isDelay (e : Event) : Bool :=
  match e with
  | .opened => false
  | .write _ _ => false
  | .delay _ => true
  | .closed => false

/-- The port trace of R10 (a): the attempted writes and the `DELAY` markers, in order. -/
def portTrace (l : List Event) : List Event := l.filter (fun e => isWrite e || isDelay e)

/-- The number of attempted Port writes (R116). -/
def attempts (l : List Event) : Nat := l.countP isWrite

/-- The number of delays (R133). -/
def delays (l : List Event) : Nat := l.countP isDelay

/-- Some attempted write failed. -/
def anyFailed (l : List Event) : Bool := l.any isFailedWrite

/-- Every attempted write leaves bit `bit` low (R117). -/
def allLow (bit : Byte) (l : List Event) : Bool :=
  l.all (fun e =>
    match e with
    | .opened => true
    | .write v _ => v &&& bit == 0
    | .delay _ => true
    | .closed => true)

/-! ## What the controllers see -/

/-- A latch `(c, rs, n)` (R74). -/
structure Latch where
  controller : Controller
  rs         : Bool
  nibble     : Nibble
deriving DecidableEq, Repr

/-- The latch of controller `c` at one change of the port byte, if its Enable falls (R74). -/
def latchOf (p : Params) (c : Controller) (before after : Byte) : List Latch :=
  if enableFalls p c before after then [{ controller := c, rs := rsLevel p after, nibble := dataNibble p after }] else []

/-- The latch list of a stretch of the trace that starts with the port byte `before` (R74): only successful writes
count, and an opening Port starts from `PORT_INIT`. -/
def latchesFrom (p : Params) (before : Byte) (l : List Event) : List Latch :=
  match l with
  | [] => []
  | .opened :: rest => latchesFrom p p.portInit rest
  | .write v true :: rest => latchOf p .one before v ++ latchOf p .two before v ++ latchesFrom p v rest
  | .write _ false :: rest => latchesFrom p before rest
  | .delay _ :: rest => latchesFrom p before rest
  | .closed :: rest => latchesFrom p before rest

/-- The latches of one clean `initSequence()` on controller `c` (R132): "`3, 3, 3, 2, 2,8, 0,8, 0,1, 0,6, 0,C` (hex
nibbles, all with rs = 0)". -/
def initLatches (c : Controller) : List Latch :=
  ([0x3, 0x3, 0x3, 0x2, 0x2, 0x8, 0x0, 0x8, 0x0, 0x1, 0x0, 0x6, 0x0, 0xC] : List Nibble).map
    (fun n => { controller := c, rs := false, nibble := n })

/-- The sink of controller `c`. -/
def lcdOf (c : Controller) (s : State) : Lcd :=
  match c with
  | .one => s.lcd1
  | .two => s.lcd2

/-- The controller that is not `c`. -/
def otherController (c : Controller) : Controller :=
  match c with
  | .one => .two
  | .two => .one

/-- Controller `c` is ready for the next byte: 4-bit mode, no half byte waiting, its Enable present and low on the
port. -/
abbrev Listening (c : Controller) (s : State) : Prop :=
  (lcdOf c s).fourBit = true ∧ (lcdOf c s).pending = none ∧
  bitE s.cfg c ≠ 0 ∧ s.cached &&& bitE s.cfg c = 0

/-- A controller after its init run (R222): 4-bit, 2-line, display on, cursor off, blink off, entry mode increment,
and at a byte boundary. -/
abbrev Initialised (l : Lcd) : Prop :=
  l.fourBit = true ∧ l.pending = none ∧ l.twoLine = true ∧ l.largeFont = false ∧ l.displayOn = true ∧
  l.cursorOn = false ∧ l.blinkOn = false ∧ l.increment = true ∧ l.shiftOn = false

/-- The whole of a controller right after its init run (R222): its DDRAM cleared, its CGRAM as it was. -/
def freshLcd (cgram : Memory) : Lcd :=
  { fourBit := true, pending := none, twoLine := true, largeFont := false, displayOn := true,
    cursorOn := false, blinkOn := false, increment := true, shiftOn := false, addr := .ddram 0,
    ddram := [], cgram := cgram }

/-! ## Invariants -/

/-- Between operations (R36, R22, R32): the parameter set is well-formed, `ACTIVE = 1`, `RS = BIT_RS`; READY means
`DW`, INIT_READY and an open Port; DISCONNECTED means the opposite; CONNECTING is never seen. -/
abbrev BetweenOps (s : State) : Prop :=
  wellFormedParams s.cfg = true ∧ s.active = .one ∧ s.rs = bitRs s.cfg ∧
  (s.engState = .ready → s.dw = true ∧ s.initState = .initReady ∧ s.opened = true) ∧
  (s.engState = .disconnected → s.dw = false ∧ s.initState = .uninitialized ∧ s.opened = false) ∧
  s.engState ≠ .connecting

/-- Between operations in READY: the state a display operation acts in. -/
abbrev ReadyBetweenOps (s : State) : Prop := BetweenOps s ∧ s.engState = .ready

/-- The four memories are in canonical form. -/
abbrev MemoriesWf (s : State) : Prop :=
  Memory.wf .ddram s.lcd1.ddram = true ∧ Memory.wf .cgram s.lcd1.cgram = true ∧
  Memory.wf .ddram s.lcd2.ddram = true ∧ Memory.wf .cgram s.lcd2.cgram = true

/-- While `ERR` is false in READY (R214), every controller that exists is initialised and listening, and RW is low. -/
abbrev InStep (s : State) : Prop :=
  s.engState = .ready → s.err = false →
    s.cached &&& bitRw s.cfg = 0 ∧ s.cached &&& bitE s.cfg .one = 0 ∧ Initialised s.lcd1 ∧
    (dual s.cfg = true → s.cached &&& bitE s.cfg .two = 0 ∧ Initialised s.lcd2)

/-- The oracle's next `n` answers are all success. -/
abbrev AnswersOk (n : Nat) (s : State) : Prop := s.oracle.take n = List.replicate n true

/-! ## Frames -/

/-- What no transfer changes: the parameter set, `ENG_STATE`, `INIT_STATE`, `DW`, `OPEN`, the host's two channels. -/
abbrev EngineKept (s t : State) : Prop :=
  t.cfg = s.cfg ∧ t.engState = s.engState ∧ t.initState = s.initState ∧ t.dw = s.dw ∧ t.opened = s.opened ∧
  t.hostIn = s.hostIn ∧ t.results = s.results

/-- The pins no transfer to controller `c` may change (R118): all but E(c), RS, RW and D4..D7. -/
def keptPins (p : Params) (c : Controller) : Byte := controlMask p c &&& dataMask p

/-- The pins no display operation but BACKLIGHT may change (R59, R118): all but E1, E2, RS, RW and D4..D7. -/
def backgroundPins (p : Params) : Byte := keptPins p .one &&& keptPins p .two

/-- Every address of both memories of `l` reads as in `k`. -/
abbrev SameMemory (k l : Lcd) : Prop :=
  ∀ a, Memory.read .ddram l.ddram a = Memory.read .ddram k.ddram a ∧
       Memory.read .cgram l.cgram a = Memory.read .cgram k.cgram a

/-- The memory `m'` is `m` with `bytes` stored from address `a` on: those addresses read as the bytes, every other
address as before. -/
abbrev StoredAt (sp : Space) (m m' : Memory) (a : Nat) (bytes : List Byte) : Prop :=
  (∀ k, k < bytes.length → Memory.read sp m' (a + k) = bytes.getD k 0) ∧
  (∀ x, x < a ∨ a + bytes.length ≤ x → Memory.read sp m' x = Memory.read sp m x)

/-- Two states that agree on all but `ERR`. -/
abbrev SameButErr (s t : State) : Prop := { s with err := t.err } = t

/-- Two states that agree on all but the two sinks. -/
abbrev SameButSinks (s t : State) : Prop := { s with lcd1 := t.lcd1, lcd2 := t.lcd2 } = t

/-! ## Error conditions -/

/-- The operations behind the READY gate (R150): PRINT, CLEAR_LINE, CLEAR_DISPLAY, SET_CGRAM, BACKLIGHT, and through
their expansions INIT_BARGRAPH and BARGRAPH. -/
def gated (i : Instr) : Bool :=
  match i with
  | .nop => false
  | .connect => false
  | .disconnect => false
  | .print _ _ => true
  | .clearLine _ => true
  | .clearDisplay => true
  | .backlight _ => true
  | .setCgram _ _ => true
  | .setCgramAuto _ => false
  | .initBargraph => true
  | .hasBacklight => false
  | .getWidth => false
  | .getHeight => false
  | .bargraph _ _ => true
  | .reserved _ => false
  | .lcdSetDdramAddr _ => false
  | .lcdSetCgramAddr _ => false
  | .lcdFunctionSet => false
  | .lcdDisplayOff => false
  | .lcdClearDisplay => false
  | .lcdEntryMode => false
  | .lcdDisplayOn => false
  | .lcdForce8bit => false
  | .lcdSwitch4bit => false
  | .lcdData _ => false

/-- The line operand of an operation that computes `lineAddr` (R200): PRINT, CLEAR_LINE, BARGRAPH. -/
def lineOperand (i : Instr) : Option Byte :=
  match i with
  | .nop => none
  | .connect => none
  | .disconnect => none
  | .print line _ => some line
  | .clearLine line => some line
  | .clearDisplay => none
  | .backlight _ => none
  | .setCgram _ _ => none
  | .setCgramAuto _ => none
  | .initBargraph => none
  | .hasBacklight => none
  | .getWidth => none
  | .getHeight => none
  | .bargraph line _ => some line
  | .reserved _ => none
  | .lcdSetDdramAddr _ => none
  | .lcdSetCgramAddr _ => none
  | .lcdFunctionSet => none
  | .lcdDisplayOff => none
  | .lcdClearDisplay => none
  | .lcdEntryMode => none
  | .lcdDisplayOn => none
  | .lcdForce8bit => none
  | .lcdSwitch4bit => none
  | .lcdData _ => none

/-- The error kind an operation meets before its first Port write, by R207's order: ConfigurationError at
construction, then NotReady, then InvalidLineNumber. (TransportFailure can then occur at any write.) -/
def conditionMet (i : Instr) (s : State) : Option ErrorKind :=
  if !wellFormedParams s.cfg then some .configurationError
  else if gated i && decide (s.engState ≠ .ready) then some .notReady
  else
    match lineOperand i with
    | none => none
    | some line => if validLine s.cfg line then none else some .invalidLineNumber

/-- The byte an LCD row is sent as (R86 to R88, R114): the command or data byte, a handshake nibble in bits 7:4; 0x00
for a host operation, which is not one transfer. -/
def transferByte (i : Instr) : Byte :=
  match i with
  | .nop => 0
  | .connect => 0
  | .disconnect => 0
  | .print _ _ => 0
  | .clearLine _ => 0
  | .clearDisplay => 0
  | .backlight _ => 0
  | .setCgram _ _ => 0
  | .setCgramAuto _ => 0
  | .initBargraph => 0
  | .hasBacklight => 0
  | .getWidth => 0
  | .getHeight => 0
  | .bargraph _ _ => 0
  | .reserved _ => 0
  | .lcdSetDdramAddr a => 0x80 ||| a.setWidth 8
  | .lcdSetCgramAddr a => 0x40 ||| a.setWidth 8
  | .lcdFunctionSet => 0x28
  | .lcdDisplayOff => 0x08
  | .lcdClearDisplay => 0x01
  | .lcdEntryMode => 0x06
  | .lcdDisplayOn => 0x0C
  | .lcdForce8bit => 0x30
  | .lcdSwitch4bit => 0x20
  | .lcdData d => d

end Sys2Proof.Machine
end

