-- ==== Sys2Proof/Certificates/Slice0/Obligations.lean ====
section
/-! DEFINITION. The statements for the provers, each from the numbered rules of spec/. Statements about all states hold
for every parameter set, because the state carries its set, and for every answer of the transport oracle, because the
state lists the answers and unlisted ones are free values. -/

open Sys2Proof Sys2Proof.Machine

/-! ## Encodings -/

/-- The words the spec writes out decode to the instructions they stand for (R82, R83, R85, R86, R87, R88;
spec/95_test_vectors.md P1, P3, P4). -/
def Obligations.SpecWordsDecode : Prop :=
  decodeFrame [0x00] = .ok .nop ∧
  decodeFrame [0x01] = .ok .connect ∧
  decodeFrame [0x03, 0x01, 0x48, 0x69] = .ok (.print 1 [0x48, 0x69]) ∧
  decodeFrame [0x06, 0xFE] = .ok (.backlight false) ∧
  decodeFrame [0x07, 0x48, 1, 2, 3, 4, 5, 6, 7, 8] = .ok (.setCgram 0x08 [1, 2, 3, 4, 5, 6, 7, 8]) ∧
  decodeFrame [0x0D, 0x02, 0x25] = .ok (.bargraph 2 37) ∧
  decodeFrame [0xEE] = .ok (.reserved 0xEE) ∧
  decodeLcdCommand 0xC0 = .ok (.lcdSetDdramAddr 0x40) ∧
  decodeLcdCommand 0x48 = .ok (.lcdSetCgramAddr 0x08) ∧
  decodeLcdCommand 0x28 = .ok .lcdFunctionSet ∧
  decodeLcdNibble 0x3 = .ok .lcdForce8bit ∧
  decodeLcdNibble 0x2 = .ok .lcdSwitch4bit

/-- Decode of encode is the instruction, for every well-formed instruction of every layer (R81 to R88, R93, R114). -/
def Obligations.DecodeOfEncodeIsTheInstruction : Prop :=
  ∀ i : Instr, i.wellFormed = true → decodeLayer i.layer (encode i) = .ok i

/-- Each LCD command byte and each handshake nibble stands for one row at most: whatever decodes re-encodes to the
same bits (R86, R87, R88). -/
def Obligations.EncodeOfDecodedLcdWordIsTheWord : Prop :=
  (∀ (b : Byte) (i : Instr), decodeLcdCommand b = .ok i → encode i = [b] ∧ i.layer = .lcdCommand) ∧
  (∀ (n : Nibble) (i : Instr), decodeLcdNibble n = .ok i → encode i = [n.setWidth 8] ∧ i.layer = .lcdNibble)

/-- Every frame that decodes gives a well-formed host operation (R80, R83, R85). -/
def Obligations.FramesDecodeToWellFormedHostOperations : Prop :=
  ∀ (f : List Byte) (i : Instr), decodeFrame f = .ok i → i.wellFormed = true ∧ i.layer = .hostFrame

/-- A frame of an opcode without a payload, with at least its fixed operands, means the same with extra bytes (R85);
PRINT's payload runs to the end of the frame (R81). -/
def Obligations.ExtraOperandBytesAreIgnored : Prop :=
  (∀ (opcode : Byte) (args extra : List Byte), opcode ≠ 0x03 → fixedLength opcode.toNat ≤ args.length + 1 →
    decodeFrame (opcode :: (args ++ extra)) = decodeFrame (opcode :: args)) ∧
  (∀ (line : Byte) (text : List Byte), decodeFrame (0x03 :: line :: text) = .ok (.print line text))

/-- The host's stream is cut at the `last` flags and nowhere else (R81, R93). -/
def Obligations.SentFramesAreCutOffWhole : Prop :=
  ∀ (f : List Byte) (rest : List HostByte), f ≠ [] → takeFrame (sendFrame f ++ rest) = some (f, rest)

/-! ## A step -/

/-- A step runs the decoded instruction (R81): the next frame is consumed and its operation executed. -/
def Obligations.StepRunsTheDecodedInstruction : Prop :=
  ∀ (s : State) (f : List Byte) (rest : List HostByte) (i : Instr), wellFormedParams s.cfg = true →
    takeFrame s.hostIn = some (f, rest) → decodeFrame f = .ok i → step s = exec i { s with hostIn := rest }

/-- Without a complete frame the engine waits (R81, R220; the state of a waiting engine is the model's reading). -/
def Obligations.StepWaitsForAFrame : Prop :=
  ∀ s : State, wellFormedParams s.cfg = true → takeFrame s.hostIn = none → step s = .next s

/-- A frame shorter than its opcode's fixed part is consumed and changes nothing else (R85, R93). -/
def Obligations.ShortFramesAreConsumedWithoutEffect : Prop :=
  ∀ (s : State) (opcode : Byte) (args : List Byte) (rest : List HostByte), wellFormedParams s.cfg = true →
    args.length + 1 < fixedLength opcode.toNat → takeFrame s.hostIn = some (opcode :: args, rest) →
    step s = .next { s with hostIn := rest }

/-- An ill-formed parameter set is refused at construction with ConfigurationError (R7, R204); a well-formed one is built
in its reset state and every step of it answers a next state, whatever the host sends: nothing faults, traps or stops
(R205). That a step of a state with an ill-formed set is refused too is the model's choice (notes/assumptions/25.md). -/
def Obligations.OnlyIllFormedParametersAreRefused : Prop :=
  (∀ p : Params, wellFormedParams p = false → construct p = .error .configurationError) ∧
  (∀ p : Params, wellFormedParams p = true → construct p = .ok (State.resetWith p)) ∧
  (∀ s : State, wellFormedParams s.cfg = false → step s = .refused .configurationError) ∧
  (∀ s : State, wellFormedParams s.cfg = true → ∃ t, step s = .next t)

/-! ## Reset and the invariants -/

/-- Reset leaves R37's values: DISCONNECTED, UNINITIALIZED, ACTIVE = 1, RS = BIT_RS, DW, ERR and OPEN false, and makes
no Port write (R37, R220). -/
def Obligations.ResetLeavesTheSpecsValues : Prop :=
  ∀ p : Params, let s := State.resetWith p
    s.engState = .disconnected ∧ s.initState = .uninitialized ∧ s.active = .one ∧ s.rs = bitRs p ∧
    s.dw = false ∧ s.err = false ∧ s.opened = false ∧ s.cfg = p ∧ attempts s.log = 0

/-- Reset meets the invariants, for every well-formed parameter set and for the one `State.reset` carries. -/
def Obligations.ResetMeetsTheInvariants : Prop :=
  (∀ p : Params, wellFormedParams p = true →
    BetweenOps (State.resetWith p) ∧ MemoriesWf (State.resetWith p) ∧ InStep (State.resetWith p)) ∧
  BetweenOps State.reset ∧ MemoriesWf State.reset ∧ InStep State.reset

/-- Every step keeps the invariants between operations: R36's (a) to (e), and what R22, R32, R37 and R135 say of
INIT_STATE, OPEN and DW in READY and DISCONNECTED. (R36 itself derives that the operations preserve them.) -/
def Obligations.StepKeepsTheInvariant : Prop :=
  ∀ s t : State, BetweenOps s → step s = .next t → BetweenOps t

/-- Every instruction keeps the memories in canonical form, whatever the oracle answers. -/
def Obligations.ExecKeepsMemoriesCanonical : Prop :=
  ∀ (i : Instr) (s t : State), MemoriesWf s → exec i s = .next t → MemoriesWf t

/-- As long as `ERR` is false in READY, every controller is initialised, at a byte boundary, and its Enable is low:
every step keeps that, CONNECT establishes it from any state of the controllers (R214, R222, R36). What the sink makes of
the bytes before it is in step, a half byte waiting or a stray latch included, is the model's (notes/assumptions/9.md,
10.md, 15.md, 22.md, 24.md). -/
def Obligations.StepKeepsControllersInStep : Prop :=
  ∀ s t : State, BetweenOps s → InStep s → step s = .next t → InStep t

/-- No instruction writes the parameter set (R6, R28) or the host's incoming bytes, and the trace only grows (R69). -/
def Obligations.ParametersAndTraceArePreserved : Prop :=
  ∀ (i : Instr) (s t : State), exec i s = .next t →
    t.cfg = s.cfg ∧ t.hostIn = s.hostIn ∧ ∃ evs, t.log = s.log ++ evs

/-! ## The Port -/

/-- `maskedWrite` on an open Port (R51, R52, R57, R58): one attempted write of the merged byte, which is bit by bit the
cached bit where the mask is 1 and the data bit where it is 0; committed on success, the cache unchanged on failure;
the oracle's answer returned. -/
def Obligations.MaskedWriteMergesBitByBit : Prop :=
  ∀ (mask data : Byte) (s : State), s.opened = true →
    ∃ v : Byte, (∀ k, k < 8 → v.getLsbD k = if mask.getLsbD k then s.cached.getLsbD k else data.getLsbD k) ∧
      (maskedWrite mask data s).1 = nextAnswer s ∧
      (maskedWrite mask data s).2.log = s.log ++ [.write v (nextAnswer s)] ∧
      (maskedWrite mask data s).2.cached = (if nextAnswer s then v else s.cached)

/-- `setPin(pin, state)` on an open Port (R53): one attempted write; when it succeeds bit `pin` is `state` and no other bit
of the cache is altered; when it fails the cache is as before; it returns what the write returned. -/
def Obligations.SetPinChangesOneBit : Prop :=
  ∀ (pin : Nat) (level : Bool) (s : State), pin < 8 → s.opened = true →
    (setPin pin level s).1 = nextAnswer s ∧ attempts (setPin pin level s).2.log = attempts s.log + 1 ∧
    (∀ k, k < 8 → (setPin pin level s).2.cached.getLsbD k =
      if nextAnswer s ∧ k = pin then level else s.cached.getLsbD k)

/-- `close()` (R56): OPEN cleared, one close recorded, no transport write; a second close does nothing. -/
def Obligations.CloseIsIdempotent : Prop :=
  ∀ s : State, (closePort s).opened = false ∧ closePort (closePort s) = closePort s ∧
    attempts (closePort s).log = attempts s.log ∧
    (s.opened = true → (closePort s).log = s.log ++ [.closed]) ∧ (s.opened = false → closePort s = s)

/-! ## Transfers: the LCD rows -/

/-- Each LCD row is one transfer on an open Port (R80, R112 to R114, R116): it completes with 7 attempted writes when
`DW` is true and 4 when it is false, whatever the oracle answers; `ERR` records exactly whether one failed; RS is
restored after a command (R113); SWITCH_4BIT leaves `DW` true (R137); nothing else of the engine changes. A row as one
transfer with `DW` at either value, and `DW` set as part of SWITCH_4BIT, are the model's reading
(notes/assumptions/17.md). -/
def Obligations.LcdTransfersComplete : Prop :=
  ∀ (i : Instr) (s : State), i.layer ≠ .hostFrame → s.opened = true →
    ∃ (t : State) (evs : List Event), exec i s = .next t ∧
      t.log = s.log ++ evs ∧ evs.all isWrite = true ∧ attempts evs = (if s.dw then 7 else 4) ∧
      t.err = (s.err || anyFailed evs) ∧
      t.rs = (if i.layer = .lcdData then s.rs else bitRs s.cfg) ∧
      t.dw = (if i = .lcdSwitch4bit then true else s.dw) ∧
      t.cfg = s.cfg ∧ t.engState = s.engState ∧ t.initState = s.initState ∧ t.active = s.active ∧
      t.opened = s.opened ∧ t.hostIn = s.hostIn ∧ t.results = s.results

/-- While the Port is closed no transfer is made (R32; that the row then does nothing is the model's reading,
notes/assumptions/14.md). -/
def Obligations.LcdTransfersNeedAnOpenPort : Prop :=
  ∀ (i : Instr) (s : State), i.layer ≠ .hostFrame → s.opened = false → exec i s = .next s

/-- What a transfer leaves alone (R118, R26, R27, R115): whatever the oracle answers, every pin but E of the active
controller, RS, RW and D4..D7; with `ERR` false afterwards (R214), the other controller's sink whole
(notes/assumptions/15.md). -/
def Obligations.LcdTransfersKeepOtherPinsAndTheOtherController : Prop :=
  ∀ (i : Instr) (s t : State), i.layer ≠ .hostFrame → wellFormedParams s.cfg = true → exec i s = .next t →
    t.cached &&& keptPins s.cfg s.active = s.cached &&& keptPins s.cfg s.active ∧
    (t.err = false → lcdOf (otherController s.active) t = lcdOf (otherController s.active) s)

/-- The port bytes of a full transfer whose writes all succeed (R89, R111, R112, R117): Enable goes 0 1 1 0 1 1 0, RW is
0 and RS the transfer's level throughout, the data lines carry the old nibble, then the high, then the low nibble,
every other pin is kept; the cache ends as the last byte. For a handshake row with `DW` true this is the model's reading
of the row (notes/assumptions/17.md). -/
def Obligations.TransferPortBytes : Prop :=
  ∀ (i : Instr) (s : State), i.layer ≠ .hostFrame → wellFormedParams s.cfg = true → s.opened = true → s.dw = true →
    s.rs = bitRs s.cfg → bitE s.cfg s.active ≠ 0 → AnswersOk 7 s →
    ∃ (t : State) (b : List Byte), exec i s = .next t ∧ t.log = s.log ++ b.map (fun v => .write v true) ∧
      b.map (fun v => v &&& bitE s.cfg s.active != 0) = [false, true, true, false, true, true, false] ∧
      b.map (fun v => v &&& bitRw s.cfg != 0) = List.replicate 7 false ∧
      b.map (rsLevel s.cfg) = List.replicate 7 (decide (i.layer = .lcdData)) ∧
      b.map (dataNibble s.cfg) =
        [dataNibble s.cfg s.cached, dataNibble s.cfg s.cached, highNibble (transferByte i), highNibble (transferByte i),
         highNibble (transferByte i), lowNibble (transferByte i), lowNibble (transferByte i)] ∧
      (∀ v ∈ b, v &&& keptPins s.cfg s.active = s.cached &&& keptPins s.cfg s.active) ∧
      b.getLast? = some t.cached

/-- The port bytes of a handshake nibble, `DW` false (R88, R89, R112): four writes, the high half of 0x30 or 0x20 alone. -/
def Obligations.HandshakePortBytes : Prop :=
  ∀ (i : Instr) (s : State), i.layer = .lcdNibble → wellFormedParams s.cfg = true → s.opened = true → s.dw = false →
    bitE s.cfg s.active ≠ 0 → AnswersOk 4 s →
    ∃ (t : State) (b : List Byte), exec i s = .next t ∧ t.log = s.log ++ b.map (fun v => .write v true) ∧
      b.map (fun v => v &&& bitE s.cfg s.active != 0) = [false, true, true, false] ∧
      b.map (fun v => v &&& bitRw s.cfg != 0) = List.replicate 4 false ∧
      b.map (rsLevel s.cfg) = List.replicate 4 false ∧
      b.map (dataNibble s.cfg) =
        [dataNibble s.cfg s.cached, dataNibble s.cfg s.cached, highNibble (transferByte i), highNibble (transferByte i)] ∧
      (i = .lcdForce8bit → highNibble (transferByte i) = 0x3) ∧ (i = .lcdSwitch4bit → highNibble (transferByte i) = 0x2)

/-- What a strobe of nibble `n` latches when its three writes succeed, and when one of them fails (R111, R119, under
R119's reading that a failed write does not reach the pins): Enable never rises and nothing is latched; the previous
nibble is latched; Enable stays high and nothing is latched. The other controller never latches anything. -/
def Obligations.StrobeLatches : Prop :=
  ∀ (n : Nibble) (s : State), wellFormedParams s.cfg = true → s.opened = true → bitE s.cfg s.active ≠ 0 →
    s.cached &&& bitE s.cfg s.active = 0 → (s.rs = 0 ∨ s.rs = bitRs s.cfg) →
    ∃ evs, (strobe n s).log = s.log ++ evs ∧ attempts evs = 3 ∧
      (s.oracle.take 3 = [true, true, true] → latchesFrom s.cfg s.cached evs =
        [{ controller := s.active, rs := decide (s.rs ≠ 0), nibble := n }]) ∧
      (s.oracle.take 3 = [false, true, true] → latchesFrom s.cfg s.cached evs = []) ∧
      (s.oracle.take 3 = [true, false, true] → latchesFrom s.cfg s.cached evs =
        [{ controller := s.active, rs := decide (s.rs ≠ 0), nibble := dataNibble s.cfg s.cached }]) ∧
      (s.oracle.take 3 = [true, true, false] → latchesFrom s.cfg s.cached evs = [] ∧
        (strobe n s).cached &&& bitE s.cfg s.active ≠ 0)

/-- What the command rows do to a listening controller when no write fails (R86, R87, R75): the two address commands
set its counter, the mode commands its mode bits, the clear command clears its DDRAM and homes the counter. The sink
is the model's (notes/assumptions/15.md), and so is the empty list as the cleared DDRAM (notes/assumptions/12.md). -/
def Obligations.LcdCommandsActOnTheActiveController : Prop :=
  ∀ s : State, wellFormedParams s.cfg = true → s.opened = true → s.dw = true → Listening s.active s →
    (∀ a, ∃ t, exec (.lcdSetDdramAddr a) s = .next t ∧
      (t.err = false → lcdOf s.active t = { lcdOf s.active s with addr := .ddram a })) ∧
    (∀ a, ∃ t, exec (.lcdSetCgramAddr a) s = .next t ∧
      (t.err = false → lcdOf s.active t = { lcdOf s.active s with addr := .cgram a })) ∧
    (∃ t, exec .lcdFunctionSet s = .next t ∧
      (t.err = false → lcdOf s.active t =
        { lcdOf s.active s with fourBit := true, twoLine := true, largeFont := false })) ∧
    (∃ t, exec .lcdDisplayOff s = .next t ∧
      (t.err = false → lcdOf s.active t =
        { lcdOf s.active s with displayOn := false, cursorOn := false, blinkOn := false })) ∧
    (∃ t, exec .lcdClearDisplay s = .next t ∧
      (t.err = false → lcdOf s.active t = { lcdOf s.active s with ddram := [], addr := .ddram 0 })) ∧
    (∃ t, exec .lcdEntryMode s = .next t ∧
      (t.err = false → lcdOf s.active t = { lcdOf s.active s with increment := true, shiftOn := false })) ∧
    (∃ t, exec .lcdDisplayOn s = .next t ∧
      (t.err = false → lcdOf s.active t =
        { lcdOf s.active s with displayOn := true, cursorOn := false, blinkOn := false }))

/-- A data byte to a listening controller, when no write fails, is stored at its address counter and nowhere else, and
the counter increments (R62, R75, R114). -/
def Obligations.LcdDataIsStoredAtTheAddressCounter : Prop :=
  ∀ (d : Byte) (s : State), wellFormedParams s.cfg = true → s.opened = true → s.dw = true → s.rs = bitRs s.cfg →
    Listening s.active s → MemoriesWf s →
    ∃ t, exec (.lcdData d) s = .next t ∧ (t.err = false →
      (∀ a, (lcdOf s.active s).addr = .ddram a →
        StoredAt .ddram (lcdOf s.active s).ddram (lcdOf s.active t).ddram a.toNat [d] ∧
        (lcdOf s.active t).cgram = (lcdOf s.active s).cgram ∧
        ((lcdOf s.active s).increment = true → a ≠ 0x7F → (lcdOf s.active t).addr = .ddram (a + 1))) ∧
      (∀ a, (lcdOf s.active s).addr = .cgram a →
        StoredAt .cgram (lcdOf s.active s).cgram (lcdOf s.active t).cgram a.toNat [d] ∧
        (lcdOf s.active t).ddram = (lcdOf s.active s).ddram ∧
        ((lcdOf s.active s).increment = true → a ≠ 0x3F → (lcdOf s.active t).addr = .cgram (a + 1))))

/-- The forced handshake resynchronises a controller "regardless of prior controller state" (R38, R88, R132): whatever
its bus width, its nibble phase and the level of its Enable, three FORCE_8BIT nibbles and SWITCH_4BIT, when no write
fails, leave it in 4-bit mode at a byte boundary with its CGRAM untouched. What the sink makes of the bytes on the way
is the model's (notes/assumptions/9.md, 10.md, 15.md, 22.md, 24.md). -/
def Obligations.HandshakeResynchronisesAnyController : Prop :=
  ∀ s : State, wellFormedParams s.cfg = true → s.opened = true → s.dw = false → bitE s.cfg s.active ≠ 0 →
    ∃ t1 t2 t3 t4, exec .lcdForce8bit s = .next t1 ∧ exec .lcdForce8bit t1 = .next t2 ∧
      exec .lcdForce8bit t2 = .next t3 ∧ exec .lcdSwitch4bit t3 = .next t4 ∧ t4.dw = true ∧
      (t4.err = false → (lcdOf s.active t4).fourBit = true ∧ (lcdOf s.active t4).pending = none ∧
        (lcdOf s.active t4).cgram = (lcdOf s.active s).cgram)

/-! ## CONNECT and DISCONNECT -/

/-- CONNECT out of DISCONNECTED completes in READY whatever the oracle answers (R131, R134, R116, R133): 51 attempted
writes and one delay, 102 and two on dual geometry, and nothing else; each delay is of `T_INIT` and stands after the
first FORCE_8BIT nibble of its run, its fourth write (R132, R224); `ERR` records this connection's failures alone (R30);
the pins that no transfer drives are those of `PORT_INIT` (R131, R59, R226 (c)). -/
def Obligations.ConnectCompletes : Prop :=
  ∀ s : State, s.engState = .disconnected →
    ∃ (t : State) (evs : List Event), exec .connect s = .next t ∧
      t.engState = .ready ∧ t.initState = .initReady ∧ t.active = .one ∧ t.rs = bitRs s.cfg ∧ t.dw = true ∧
      t.opened = true ∧ t.log = s.log ++ .opened :: evs ∧
      attempts evs = (if dual s.cfg then 102 else 51) ∧ delays evs = (if dual s.cfg then 2 else 1) ∧
      (∀ e ∈ evs, isWrite e = true ∨ e = .delay s.cfg.tInit) ∧
      evs[4]? = some (.delay s.cfg.tInit) ∧ (dual s.cfg = true → evs[56]? = some (.delay s.cfg.tInit)) ∧
      t.cached &&& backgroundPins s.cfg = s.cfg.portInit &&& backgroundPins s.cfg ∧
      t.err = anyFailed evs ∧ t.cfg = s.cfg ∧ t.hostIn = s.hostIn ∧ t.results = s.results

/-- CONNECT when `ENG_STATE` is not DISCONNECTED does nothing (R136). -/
def Obligations.ConnectWhenConnectedDoesNothing : Prop :=
  ∀ s : State, s.engState ≠ .disconnected → exec .connect s = .next s

/-- A CONNECT without a failed write leaves every controller that exists freshly initialised, from any prior state of
it and any `PORT_INIT` (R222, R131, R134, R226): 4-bit, 2-line, display on, cursor and blink off, increment, DDRAM
cleared, CGRAM as it was. On single geometry controller 2's sink is untouched. What the sink makes of the bytes before
it is in step, and a cleared DDRAM as the empty list, are the model's (notes/assumptions/9.md, 10.md, 12.md, 15.md,
22.md, 24.md). -/
def Obligations.CleanConnectInitialisesEveryController : Prop :=
  ∀ s : State, wellFormedParams s.cfg = true → s.engState = .disconnected →
    ∃ t, exec .connect s = .next t ∧ (t.err = false →
      t.lcd1 = freshLcd s.lcd1.cgram ∧
      t.lcd2 = (if dual s.cfg then freshLcd s.lcd2.cgram else s.lcd2))

/-- The latches of a clean CONNECT (R132, R138, R74, R226): on controller 1 the nibbles 3 3 3 2 and then 28 08 01 06 0C as
nibbles, all with RS low, and on dual geometry the same on controller 2; each run preceded by one stray latch when that
controller's Enable is high in `PORT_INIT`: of the nibble of `PORT_INIT`, or of controller 1's last nibble C. -/
def Obligations.CleanConnectLatches : Prop :=
  ∀ s : State, wellFormedParams s.cfg = true → s.engState = .disconnected →
    AnswersOk (if dual s.cfg then 102 else 51) s →
    ∃ t evs, exec .connect s = .next t ∧ t.log = s.log ++ evs ∧
      latchesFrom s.cfg s.cached evs =
        (if s.cfg.portInit &&& bitE s.cfg .one = 0 then []
          else [{ controller := .one, rs := false, nibble := dataNibble s.cfg s.cfg.portInit }]) ++
        initLatches .one ++
        (if dual s.cfg then
          (if s.cfg.portInit &&& bitE s.cfg .two = 0 then [] else [{ controller := .two, rs := false, nibble := 0xC }]) ++
          initLatches .two
        else [])

/-- `initSequence()` is ten transitions of R137's table from UNINITIALIZED (R132, R137). -/
def Obligations.InitSequenceFollowsTheTransitionTable : Prop :=
  ∀ s : State, initSequence s = initTransitions 10 (setDw false (setInitState .uninitialized s))

/-- DISCONNECT (R135): from any state but DISCONNECTED it leaves DISCONNECTED, UNINITIALIZED, `DW` and OPEN false, `ERR`
kept, no Port write, and nothing else changed but `CACHED`; in DISCONNECTED it does nothing. -/
def Obligations.DisconnectCompletes : Prop :=
  (∀ s : State, s.engState = .disconnected → exec .disconnect s = .next s) ∧
  (∀ s : State, s.engState ≠ .disconnected →
    ∃ t, exec .disconnect s = .next t ∧ t.engState = .disconnected ∧ t.initState = .uninitialized ∧ t.dw = false ∧
      t.opened = false ∧ t.log = s.log ++ (if s.opened then [.closed] else []) ∧
      t.err = s.err ∧ t.active = s.active ∧ t.rs = s.rs ∧ t.cfg = s.cfg ∧ t.hostIn = s.hostIn ∧
      t.results = s.results ∧ t.lcd1 = s.lcd1 ∧ t.lcd2 = s.lcd2)

/-! ## The display operations -/

/-- A gated operation outside READY does nothing at all (R150, R203). -/
def Obligations.GatedOperationsNeedReady : Prop :=
  ∀ (i : Instr) (s : State), gated i = true → s.engState ≠ .ready → exec i s = .next s

/-- An operation whose first condition (R207) is NotReady does nothing; one whose first condition is InvalidLineNumber
does exactly what it does for line 1 (R202, R203, R207). -/
def Obligations.ErrorConditionsAreNoOpsOrDefaults : Prop :=
  (∀ (i : Instr) (s : State), conditionMet i s = some .notReady → exec i s = .next s) ∧
  (∀ (line : Byte) (text : List Byte) (s : State), conditionMet (.print line text) s = some .invalidLineNumber →
    exec (.print line text) s = exec (.print 1 text) s) ∧
  (∀ (line : Byte) (s : State), conditionMet (.clearLine line) s = some .invalidLineNumber →
    exec (.clearLine line) s = exec (.clearLine 1) s) ∧
  (∀ (line value : Byte) (s : State), conditionMet (.bargraph line value) s = some .invalidLineNumber →
    exec (.bargraph line value) s = exec (.bargraph 1 value) s)

/-- The address map `lineAddr` (R68): rows 1 and 2 at 0x00 and 0x40 on controller 1, rows 3 and 4 at base + WIDTH, on
controller 2 exactly on dual geometry; an invalid line takes line 1's; no address exceeds 0x68. -/
def Obligations.LineAddressMap : Prop :=
  ∀ p : Params, wellFormedParams p = true →
    lineAddr p 1 = (.one, 0x00) ∧
    lineAddr p 2 = (.one, if 2 ≤ p.height then 0x40 else 0x00) ∧
    (p.height = 4 → (lineAddr p 3).1 = (if dual p then .two else .one) ∧ (lineAddr p 3).2.toNat = p.width ∧
      (lineAddr p 4).1 = (if dual p then .two else .one) ∧ (lineAddr p 4).2.toNat = 0x40 + p.width) ∧
    (∀ line : Byte, line.toNat = 0 ∨ p.height < line.toNat → lineAddr p line = (.one, 0x00)) ∧
    (∀ line : Byte, (lineAddr p line).2.toNat ≤ 0x68)

/-- PRINT in READY (R151, R116, R118): it completes with 7 attempted writes for the address command and for every
character, whatever the oracle answers; ACTIVE and RS are back at 1 and BIT_RS; `ERR` records failures; no pin outside
E1, E2, RS, RW, D4..D7 changes; with `ERR` false afterwards (R214) the sink of the controller it does not address is
untouched (notes/assumptions/15.md). -/
def Obligations.PrintCompletes : Prop :=
  ∀ (line : Byte) (text : List Byte) (s : State), ReadyBetweenOps s →
    ∃ (t : State) (evs : List Event), exec (.print line text) s = .next t ∧
      t.log = s.log ++ evs ∧ evs.all isWrite = true ∧ attempts evs = 7 * (1 + text.length) ∧
      t.err = (s.err || anyFailed evs) ∧ t.active = .one ∧ t.rs = bitRs s.cfg ∧ EngineKept s t ∧
      t.cached &&& backgroundPins s.cfg = s.cached &&& backgroundPins s.cfg ∧
      (t.err = false →
        lcdOf (otherController (lineAddr s.cfg line).1) t = lcdOf (otherController (lineAddr s.cfg line).1) s)

/-- A PRINT without a failed write, to a line whose controller is in step: that controller gets the set-address command
for the line's address and then every byte of the text, unclipped and in order (R151, R62, R65, R231). What the sink makes
of bytes past the last DDRAM address is the model's (notes/assumptions/29.md). -/
def Obligations.PrintSendsTheAddressThenEveryByte : Prop :=
  ∀ (line : Byte) (text : List Byte) (s : State), ReadyBetweenOps s → InStep s →
    ∃ t, exec (.print line text) s = .next t ∧ (t.err = false →
      lcdOf (lineAddr s.cfg line).1 t =
        lcdDataAll text { lcdOf (lineAddr s.cfg line).1 s with addr := .ddram (lineAddr s.cfg line).2 })

/-- What a clean PRINT stores (R151, R62, R75): byte `k` of the text at the line's address + `k` of the line's
controller, every other DDRAM address and all of its CGRAM as before; the counter just past the text. (For texts that
stay inside the 7-bit DDRAM addresses; past the last one the counter is a free value.) -/
def Obligations.PrintStoresItsText : Prop :=
  ∀ (line : Byte) (text : List Byte) (s : State), ReadyBetweenOps s → InStep s → MemoriesWf s →
    (lineAddr s.cfg line).2.toNat + text.length ≤ 128 →
    ∃ t, exec (.print line text) s = .next t ∧ (t.err = false →
      StoredAt .ddram (lcdOf (lineAddr s.cfg line).1 s).ddram (lcdOf (lineAddr s.cfg line).1 t).ddram
        (lineAddr s.cfg line).2.toNat text ∧
      (lcdOf (lineAddr s.cfg line).1 t).cgram = (lcdOf (lineAddr s.cfg line).1 s).cgram ∧
      ((lineAddr s.cfg line).2.toNat + text.length < 128 → (lcdOf (lineAddr s.cfg line).1 t).addr =
        .ddram (BitVec.ofNat 7 ((lineAddr s.cfg line).2.toNat + text.length))))

/-- CLEAR_LINE (R152): in every state exactly PRINT of WIDTH spaces. In READY it makes 7*(1+WIDTH) attempted writes, and
when no write fails and the controllers are in step, every cell of the row reads 0x20 and every other cell of that
controller's DDRAM as before: other rows are not blanked. (The cells, for rows inside the 7-bit DDRAM addresses.) -/
def Obligations.ClearLineBlanksItsRowOnly : Prop :=
  ∀ (line : Byte) (s : State),
    exec (.clearLine line) s = exec (.print line (List.replicate s.cfg.width 0x20)) s ∧
    (ReadyBetweenOps s → ∃ (t : State) (evs : List Event), exec (.clearLine line) s = .next t ∧
      t.log = s.log ++ evs ∧ attempts evs = 7 * (1 + s.cfg.width) ∧ t.active = .one ∧ t.rs = bitRs s.cfg ∧
      EngineKept s t ∧ t.err = (s.err || anyFailed evs) ∧
      t.cached &&& backgroundPins s.cfg = s.cached &&& backgroundPins s.cfg ∧
      (InStep s → MemoriesWf s → (lineAddr s.cfg line).2.toNat + s.cfg.width ≤ 128 → t.err = false →
        (∀ x, (lineAddr s.cfg line).2.toNat ≤ x → x < (lineAddr s.cfg line).2.toNat + s.cfg.width →
          Memory.read .ddram (lcdOf (lineAddr s.cfg line).1 t).ddram x = 0x20) ∧
        (∀ x, x < (lineAddr s.cfg line).2.toNat ∨ (lineAddr s.cfg line).2.toNat + s.cfg.width ≤ x →
          Memory.read .ddram (lcdOf (lineAddr s.cfg line).1 t).ddram x =
            Memory.read .ddram (lcdOf (lineAddr s.cfg line).1 s).ddram x)))

/-- CLEAR_DISPLAY in READY (R153, R116): 7 attempted writes, 14 on dual geometry; when no write fails and the controllers
are in step, every controller that exists has its DDRAM cleared and its counter homed and nothing else changed. The
empty list as the cleared DDRAM is the model's (notes/assumptions/12.md, 15.md). -/
def Obligations.ClearDisplayCompletes : Prop :=
  ∀ s : State, ReadyBetweenOps s →
    ∃ (t : State) (evs : List Event), exec .clearDisplay s = .next t ∧
      t.log = s.log ++ evs ∧ attempts evs = (if dual s.cfg then 14 else 7) ∧ t.err = (s.err || anyFailed evs) ∧
      t.active = .one ∧ t.rs = bitRs s.cfg ∧ EngineKept s t ∧
      t.cached &&& backgroundPins s.cfg = s.cached &&& backgroundPins s.cfg ∧
      (InStep s → t.err = false → t.lcd1 = { s.lcd1 with ddram := [], addr := .ddram 0 } ∧
        t.lcd2 = (if dual s.cfg then { s.lcd2 with ddram := [], addr := .ddram 0 } else s.lcd2))

/-- SET_CGRAM in READY (R154, R116): 63 attempted writes for an 8-row pattern, 126 on dual geometry. With `ERR` false
afterwards (R214) controller 2's sink, which stands there on single geometry by notes/assumptions/15.md alone, is
untouched there. -/
def Obligations.SetCgramCompletes : Prop :=
  ∀ (address : BitVec 6) (pattern : List Byte) (s : State), pattern.length = 8 → ReadyBetweenOps s →
    ∃ (t : State) (evs : List Event), exec (.setCgram address pattern) s = .next t ∧
      t.log = s.log ++ evs ∧ evs.all isWrite = true ∧ attempts evs = (if dual s.cfg then 126 else 63) ∧
      t.err = (s.err || anyFailed evs) ∧ t.active = .one ∧ t.rs = bitRs s.cfg ∧ EngineKept s t ∧
      t.cached &&& backgroundPins s.cfg = s.cached &&& backgroundPins s.cfg ∧
      (dual s.cfg = false → t.err = false → t.lcd2 = s.lcd2)

/-- What a clean SET_CGRAM stores (R154, R61, R62, R66): the pattern's rows at `address` and up in the CGRAM of every
controller that exists, every other CGRAM address and all of DDRAM as before; a misaligned address is used as given.
(For addresses whose 8 rows stay inside the CGRAM; past its end the counter is a free value.) -/
def Obligations.SetCgramStoresItsPattern : Prop :=
  ∀ (address : BitVec 6) (pattern : List Byte) (s : State), pattern.length = 8 → address.toNat + 8 ≤ 64 →
    ReadyBetweenOps s → InStep s → MemoriesWf s →
    ∃ t, exec (.setCgram address pattern) s = .next t ∧ (t.err = false →
      StoredAt .cgram s.lcd1.cgram t.lcd1.cgram address.toNat pattern ∧ t.lcd1.ddram = s.lcd1.ddram ∧
      (dual s.cfg = true →
        StoredAt .cgram s.lcd2.cgram t.lcd2.cgram address.toNat pattern ∧ t.lcd2.ddram = s.lcd2.ddram))

/-- BACKLIGHT in READY with a backlight pin (R155, R53): one attempted write; when it succeeds bit PIN_BL of the cache is
the level and every other bit as before, when it fails the cache is unchanged and `ERR` set; nothing else of the engine
changes; with `ERR` false afterwards (R214) no controller has latched anything (notes/assumptions/15.md). -/
def Obligations.BacklightDrivesItsPin : Prop :=
  ∀ (enable : Bool) (pin : Nat) (s : State), ReadyBetweenOps s → s.cfg.pins.bl = some pin →
    ∃ (t : State) (v : Byte), exec (.backlight enable) s = .next t ∧
      t.log = s.log ++ [.write v (nextAnswer s)] ∧ v.getLsbD pin = enable ∧
      (∀ k, k < 8 → k ≠ pin → v.getLsbD k = s.cached.getLsbD k) ∧
      t.cached = (if nextAnswer s then v else s.cached) ∧ t.err = (s.err || !nextAnswer s) ∧
      t.active = s.active ∧ t.rs = s.rs ∧ EngineKept s t ∧ (t.err = false → t.lcd1 = s.lcd1 ∧ t.lcd2 = s.lcd2)

/-- BACKLIGHT without a backlight pin is a silent no-op in every state (R155). -/
def Obligations.BacklightWithoutAPinDoesNothing : Prop :=
  ∀ (enable : Bool) (s : State), s.cfg.pins.bl = none → exec (.backlight enable) s = .next s

/-- The operations that return a byte, in every engine state, changing nothing else (R84, R156, R157, R158, R180):
HAS_BACKLIGHT, GET_WIDTH, GET_HEIGHT, and the stub SET_CGRAM_AUTO, which returns 0x00 and programs nothing (that it is
not refused is the model's reading, notes/assumptions/28.md). -/
def Obligations.QueriesReturnOneByte : Prop :=
  ∀ (pattern : List Byte) (s : State),
    (∃ t, exec .hasBacklight s = .next t ∧ { t with results := s.results } = s ∧
      t.results = s.results ++ [if s.cfg.pins.bl.isSome then 0x01 else 0x00]) ∧
    (∃ t, exec .getWidth s = .next t ∧ { t with results := s.results } = s ∧
      t.results = s.results ++ [BitVec.ofNat 8 s.cfg.width]) ∧
    (∃ t, exec .getHeight s = .next t ∧ { t with results := s.results } = s ∧
      t.results = s.results ++ [BitVec.ofNat 8 s.cfg.height]) ∧
    (∃ t, exec (.setCgramAuto pattern) s = .next t ∧ { t with results := s.results } = s ∧
      t.results = s.results ++ [0x00])

/-- Only those four operations return anything (R84). -/
def Obligations.OnlyQueriesReturnResults : Prop :=
  ∀ (i : Instr) (s t : State), exec i s = .next t →
    t.results = s.results ∨ i = .hasBacklight ∨ i = .getWidth ∨ i = .getHeight ∨ ∃ p, i = .setCgramAuto p

/-- NOP has no effect in any state (R159), and every opcode from 0x0E to 0xFF, with any further bytes, is an operation
without effect (R85). -/
def Obligations.NopAndReservedOpcodesDoNothing : Prop :=
  (∀ s : State, exec .nop s = .next s) ∧
  (∀ (opcode : Byte) (args : List Byte), 0x0E ≤ opcode.toNat →
    decodeFrame (opcode :: args) = .ok (.reserved opcode) ∧ ∀ s : State, exec (.reserved opcode) s = .next s)

/-! ## The pseudo-operations -/

/-- `barString(v, W)` is exactly `W` codes (R183): full glyphs, then the partial glyph of the remainder if there is
one, then empty glyphs; all full from `5*W` on. -/
def Obligations.BarStringFillsTheField : Prop :=
  ∀ v w : Nat, (barString v w).length = w ∧
    ∀ k, k < w → (barString v w)[k]? = some (
      if 5 * (k + 1) ≤ v then 0x05 else if 5 * k < v then BitVec.ofNat 8 (v - 5 * k) else 0x00)

/-- INIT_BARGRAPH in READY (R181, R182, R116): 378 attempted writes, 756 on dual geometry; when no write fails and the
controllers are in step, every row of slots 0 to 5 of every controller that exists is that slot's glyph, and slots 6
and 7 and the DDRAM are as before. -/
def Obligations.InitBargraphLoadsSixGlyphs : Prop :=
  ∀ s : State, ReadyBetweenOps s →
    ∃ (t : State) (evs : List Event), exec .initBargraph s = .next t ∧
      t.log = s.log ++ evs ∧ attempts evs = (if dual s.cfg then 756 else 378) ∧ t.err = (s.err || anyFailed evs) ∧
      t.active = .one ∧ t.rs = bitRs s.cfg ∧ EngineKept s t ∧
      t.cached &&& backgroundPins s.cfg = s.cached &&& backgroundPins s.cfg ∧
      (InStep s → MemoriesWf s → t.err = false → ∀ c, (c = .one ∨ dual s.cfg = true) →
        (∀ k j, k < 6 → j < 8 → Memory.read .cgram (lcdOf c t).cgram (8 * k + j) =
          ([0x00, 0x10, 0x18, 0x1C, 0x1E, 0x1F] : List Byte).getD k 0) ∧
        (∀ x, 48 ≤ x → Memory.read .cgram (lcdOf c t).cgram x = Memory.read .cgram (lcdOf c s).cgram x) ∧
        (lcdOf c t).ddram = (lcdOf c s).ddram)

/-- BARGRAPH (R184): in every state exactly PRINT of the bar string over the whole row; in READY 7*(1+WIDTH) attempted
writes. -/
def Obligations.BargraphPrintsTheBarString : Prop :=
  ∀ (line value : Byte) (s : State),
    exec (.bargraph line value) s = exec (.print line (barString value.toNat s.cfg.width)) s ∧
    (ReadyBetweenOps s → ∃ (t : State) (evs : List Event), exec (.bargraph line value) s = .next t ∧
      t.log = s.log ++ evs ∧ attempts evs = 7 * (1 + s.cfg.width) ∧ t.err = (s.err || anyFailed evs) ∧
      t.active = .one ∧ t.rs = bitRs s.cfg ∧ EngineKept s t ∧
      t.cached &&& backgroundPins s.cfg = s.cached &&& backgroundPins s.cfg)

/-! ## Whole-machine rules -/

/-- `ERR` is sticky: only CONNECT out of DISCONNECTED clears it (R30, R209, R214). -/
def Obligations.OnlyConnectClearsErr : Prop :=
  ∀ (i : Instr) (s t : State), exec i s = .next t → s.err = true → t.err = false →
    i = .connect ∧ s.engState = .disconnected

/-- No instruction reads `ERR` (R30): from two states that differ in `ERR` alone it answers states that differ in `ERR`
alone, so the port trace, the results and every other register are the same. -/
def Obligations.ErrIsNeverRead : Prop :=
  ∀ (i : Instr) (s s' t t' : State), SameButErr s s' → exec i s = .next t → exec i s' = .next t' → SameButErr t t'

/-- Nothing in the engine depends on the sinks (R75, R38): from two states that differ in the two controllers alone
every instruction answers states that differ in the two controllers alone. -/
def Obligations.ControllersAreNeverRead : Prop :=
  ∀ (i : Instr) (s s' t t' : State), SameButSinks s s' → exec i s = .next t → exec i s' = .next t' → SameButSinks t t'

/-- On single geometry no operation ever reaches controller 2 (R23, R50, R115): from a state between operations a step
that leaves `ERR` false (R214) leaves its sink, which stands there by notes/assumptions/15.md alone, as it was. -/
def Obligations.SingleGeometryNeverReachesControllerTwo : Prop :=
  ∀ s t : State, BetweenOps s → dual s.cfg = false → step s = .next t → t.err = false →
    t.lcd2 = s.lcd2

/-- Read/Write stays low: once RW is low on the port, no operation but a new CONNECT attempts a write that raises it, for
every answer of the oracle (R117, R5). -/
def Obligations.ReadWriteIsNeverRaised : Prop :=
  ∀ (i : Instr) (s t : State) (evs : List Event), BetweenOps s → s.cached &&& bitRw s.cfg = 0 → i ≠ .connect → i ≠ .disconnect →
    exec i s = .next t → t.log = s.log ++ evs → allLow (bitRw s.cfg) evs = true ∧ t.cached &&& bitRw s.cfg = 0

/-- The engine waits only in CONNECT: no other instruction records a delay (R133, R228). -/
def Obligations.OnlyConnectDelays : Prop :=
  ∀ (i : Instr) (s t : State), exec i s = .next t → i ≠ .connect → delays t.log = delays s.log

/-! ## Reset of a running machine -/

/-- Reset and DISCONNECT leave the same engine state except for `ERR`, "which reset clears and DISCONNECT keeps"; neither
makes a Port write, and neither touches the LCD controllers, which "keep their own state" (R221, R220, R37, R135). A reset
engine meets the invariants. (`CACHED` has no meaning in either, notes/assumptions/3.md and 7.md; what stays of the
host's channels at a reset is the model's choice, notes/assumptions/30.md.) -/
def Obligations.ResetAndDisconnectAgreeButForErr : Prop :=
  ∀ s : State, BetweenOps s →
    ∃ t, exec .disconnect s = .next t ∧ t.err = s.err ∧ (resetEngine s).err = false ∧
      (resetEngine s).engState = .disconnected ∧ t.engState = (resetEngine s).engState ∧
      t.initState = (resetEngine s).initState ∧ t.active = (resetEngine s).active ∧ t.rs = (resetEngine s).rs ∧
      t.dw = (resetEngine s).dw ∧ t.opened = (resetEngine s).opened ∧ t.cfg = (resetEngine s).cfg ∧
      t.hostIn = (resetEngine s).hostIn ∧ t.results = (resetEngine s).results ∧
      attempts t.log = attempts s.log ∧ (resetEngine s).log = s.log ∧
      t.lcd1 = s.lcd1 ∧ t.lcd2 = s.lcd2 ∧ (resetEngine s).lcd1 = s.lcd1 ∧ (resetEngine s).lcd2 = s.lcd2 ∧
      BetweenOps (resetEngine s)

/-- CONNECT rebuilds everything (R131, R221): out of DISCONNECTED its outcome does not depend on what INIT_STATE, ACTIVE,
RS, DW, ERR, OPEN and the Port cache held, so it is the same after a reset and after a DISCONNECT. -/
def Obligations.ConnectRebuildsEverything : Prop :=
  ∀ (s : State) (init : InitState) (active : Controller) (rs : Byte) (dw err opened : Bool) (cached : Byte),
    s.engState = .disconnected →
    exec .connect { s with initState := init, active := active, rs := rs, dw := dw, err := err, opened := opened,
                           cached := cached } = exec .connect s
end

