-- ==== Sys2Proof/Laws/Memory.lean ====
section
/-! SUPPORT. Reading after writing, and that every memory operation keeps the canonical form. -/
namespace Sys2Proof.Machine

theorem Memory.wfFrom_mono {sp : Space} {hi lo lo' : Nat} {m : Memory} (h : Memory.wfFrom sp hi lo m = true)
    (hle : lo' ≤ lo) : Memory.wfFrom sp hi lo' m = true := by
  cases m with
  | nil => rfl
  | cons kv rest => simp [Memory.wfFrom] at h ⊢; refine ⟨⟨⟨?_, h.1.1.2⟩, h.1.2⟩, h.2⟩; omega

theorem Memory.read_below {sp : Space} {hi lo : Nat} {m : Memory} (h : Memory.wfFrom sp hi lo m = true) {a : Nat}
    (ha : a < lo) : Memory.read sp m a = unlisted sp := by
  induction m generalizing lo with
  | nil => rfl
  | cons kv rest ih =>
    simp only [Memory.wfFrom, Bool.and_eq_true, decide_eq_true_eq] at h
    have hk : kv.1 ≠ a := by omega
    simp only [Memory.read, hk, if_false]
    exact ih h.2 (by omega)

theorem Memory.read_insert_same (sp : Space) (m : Memory) (a : Nat) (b : Byte) :
    Memory.read sp (Memory.insert m a b) a = b := by
  induction m with
  | nil => simp [Memory.insert, Memory.read]
  | cons kv rest ih =>
    simp only [Memory.insert]
    split
    · simp [Memory.read]
    · split
      · simp [Memory.read]
      · rename_i h1 h2
        have : kv.1 ≠ a := fun h => h2 h.symm
        simp [Memory.read, this, ih]

theorem Memory.read_insert_other (sp : Space) (m : Memory) {a x : Nat} (b : Byte) (hx : x ≠ a) :
    Memory.read sp (Memory.insert m a b) x = Memory.read sp m x := by
  induction m with
  | nil => simp [Memory.insert, Memory.read, hx.symm]
  | cons kv rest ih =>
    simp only [Memory.insert]
    split
    · simp [Memory.read, hx.symm]
    · split
      · rename_i h1 h2
        have : kv.1 ≠ x := fun h => hx (h ▸ h2.symm)
        simp [Memory.read, this, hx.symm]
      · simp [Memory.read, ih]

theorem Memory.read_remove_same {sp : Space} {hi lo : Nat} {m : Memory} (h : Memory.wfFrom sp hi lo m = true)
    (a : Nat) : Memory.read sp (Memory.remove m a) a = unlisted sp := by
  induction m generalizing lo with
  | nil => rfl
  | cons kv rest ih =>
    simp only [Memory.wfFrom, Bool.and_eq_true, decide_eq_true_eq] at h
    simp only [Memory.remove]
    split
    · exact Memory.read_below h.2 (by omega)
    · rename_i hk
      simp [Memory.read, hk, ih h.2]

theorem Memory.read_remove_other (sp : Space) (m : Memory) {a x : Nat} (hx : x ≠ a) :
    Memory.read sp (Memory.remove m a) x = Memory.read sp m x := by
  induction m with
  | nil => rfl
  | cons kv rest ih =>
    simp only [Memory.remove]
    split
    · rename_i hk
      have : kv.1 ≠ x := fun h => hx (h ▸ hk)
      simp [Memory.read, this]
    · simp [Memory.read, ih]

theorem Memory.insert_wfFrom {sp : Space} {hi lo : Nat} {m : Memory} (h : Memory.wfFrom sp hi lo m = true) {a : Nat}
    {b : Byte} (hlo : lo ≤ a) (hhi : a < hi) (hb : b ≠ unlisted sp) :
    Memory.wfFrom sp hi lo (Memory.insert m a b) = true := by
  induction m generalizing lo with
  | nil => simp [Memory.insert, Memory.wfFrom, hlo, hhi, hb]
  | cons kv rest ih =>
    simp only [Memory.wfFrom, Bool.and_eq_true, decide_eq_true_eq, bne_iff_ne, ne_eq] at h
    simp only [Memory.insert]
    split
    · rename_i hlt
      simp only [Memory.wfFrom, Bool.and_eq_true, decide_eq_true_eq, bne_iff_ne, ne_eq]
      exact ⟨⟨⟨hlo, hhi⟩, hb⟩, ⟨⟨by omega, h.1.1.2⟩, h.1.2⟩, h.2⟩
    · split
      · rename_i heq
        simp only [Memory.wfFrom, Bool.and_eq_true, decide_eq_true_eq, bne_iff_ne, ne_eq]
        exact ⟨⟨⟨hlo, hhi⟩, hb⟩, heq ▸ h.2⟩
      · simp only [Memory.wfFrom, Bool.and_eq_true, decide_eq_true_eq, bne_iff_ne, ne_eq]
        exact ⟨h.1, ih h.2 (by omega)⟩

theorem Memory.remove_wfFrom {sp : Space} {hi lo : Nat} {m : Memory} (h : Memory.wfFrom sp hi lo m = true) (a : Nat) :
    Memory.wfFrom sp hi lo (Memory.remove m a) = true := by
  induction m generalizing lo with
  | nil => rfl
  | cons kv rest ih =>
    simp only [Memory.wfFrom, Bool.and_eq_true, decide_eq_true_eq, bne_iff_ne, ne_eq] at h
    simp only [Memory.remove]
    split
    · exact Memory.wfFrom_mono h.2 (by omega)
    · simp only [Memory.wfFrom, Bool.and_eq_true, decide_eq_true_eq, bne_iff_ne, ne_eq]
      exact ⟨h.1, ih h.2⟩

/-- A read after a write to the same address gives the value written. -/
theorem Memory.read_write_same {sp : Space} {m : Memory} (h : Memory.wf sp m = true) (a : Nat) (b : Byte) :
    Memory.read sp (Memory.write sp m a b) a = b := by
  simp only [Memory.write]
  split
  · rename_i hb; rw [Memory.read_remove_same h, hb]
  · exact Memory.read_insert_same sp m a b

/-- A write leaves every other address alone. -/
theorem Memory.read_write_other (sp : Space) (m : Memory) {a x : Nat} (b : Byte) (hx : x ≠ a) :
    Memory.read sp (Memory.write sp m a b) x = Memory.read sp m x := by
  simp only [Memory.write]
  split
  · exact Memory.read_remove_other sp m hx
  · exact Memory.read_insert_other sp m b hx

/-- A write inside the space keeps the canonical form. -/
theorem Memory.write_wf {sp : Space} {m : Memory} (h : Memory.wf sp m = true) {a : Nat} (ha : a < spaceSize sp)
    (b : Byte) : Memory.wf sp (Memory.write sp m a b) = true := by
  simp only [Memory.write]
  split
  · exact Memory.remove_wfFrom h a
  · exact Memory.insert_wfFrom h (Nat.zero_le a) ha ‹_›

/-- The empty memory, every address unlisted, is canonical. -/
@[simp] theorem Memory.wf_nil (sp : Space) : Memory.wf sp [] = true := rfl

@[simp] theorem Memory.read_nil (sp : Space) (a : Nat) : Memory.read sp [] a = unlisted sp := rfl

/-- The memories at reset are canonical. -/
theorem State.resetWith_memoriesWf (p : Params) : MemoriesWf (State.resetWith p) := ⟨rfl, rfl, rfl, rfl⟩

/-- Consecutive writes inside the space keep the canonical form. -/
theorem Memory.writeAll_wf {sp : Space} {m : Memory} (h : Memory.wf sp m = true) {a : Nat} {bytes : List Byte}
    (ha : a + bytes.length ≤ spaceSize sp) : Memory.wf sp (Memory.writeAll sp m a bytes) = true := by
  induction bytes generalizing m a with
  | nil => exact h
  | cons b rest ih =>
    simp only [List.length_cons] at ha
    exact ih (Memory.write_wf h (by omega) b) (by omega)

/-- Consecutive writes leave every address outside them alone. -/
theorem Memory.read_writeAll_outside (sp : Space) (m : Memory) {a x : Nat} (bytes : List Byte)
    (hx : x < a ∨ a + bytes.length ≤ x) :
    Memory.read sp (Memory.writeAll sp m a bytes) x = Memory.read sp m x := by
  induction bytes generalizing m a with
  | nil => rfl
  | cons b rest ih =>
    simp only [List.length_cons] at hx
    simp only [Memory.writeAll]
    rw [ih (Memory.write sp m a b) (by omega), Memory.read_write_other sp m b (by omega)]

/-- Consecutive writes inside the space store their bytes at their addresses, and nothing else changes. -/
theorem Memory.writeAll_stored {sp : Space} {m : Memory} (h : Memory.wf sp m = true) {a : Nat} {bytes : List Byte}
    (ha : a + bytes.length ≤ spaceSize sp) : StoredAt sp m (Memory.writeAll sp m a bytes) a bytes := by
  refine ⟨?_, fun x hx => Memory.read_writeAll_outside sp m bytes hx⟩
  induction bytes generalizing m a with
  | nil => intro k hk; simp at hk
  | cons b rest ih =>
    simp only [List.length_cons] at ha
    intro k hk
    simp only [Memory.writeAll]
    cases k with
    | zero =>
      rw [Memory.read_writeAll_outside _ _ _ (by omega)]
      simpa using Memory.read_write_same h a b
    | succ j =>
      have := ih (Memory.write_wf h (a := a) (by omega) b) (a := a + 1) (by omega) j (by simpa using hk)
      simpa [Nat.add_assoc, Nat.add_comm 1 j] using this

end Sys2Proof.Machine
end

