-- ==== Sys2Proof/Laws/Lcd.lean ====
section
/-! SUPPORT. The reference sink: it keeps its memories canonical; two latches make a byte; what each byte the engine
sends does; what a run of data bytes stores. -/
namespace Sys2Proof.Machine

/-- Both memories of a sink are in canonical form. -/
abbrev LcdWf (l : Lcd) : Prop := Memory.wf .ddram l.ddram = true ∧ Memory.wf .cgram l.cgram = true

theorem lcdData_wf {l : Lcd} (h : LcdWf l) (d : Byte) : LcdWf (lcdData d l) := by
  unfold lcdData
  cases hl : l.addr with
  | ddram a => exact ⟨Memory.write_wf h.1 a.isLt d, h.2⟩
  | cgram a => exact ⟨h.1, Memory.write_wf h.2 a.isLt d⟩

theorem lcdCommand_wf {l : Lcd} (h : LcdWf l) (f : AddrCounter) (hi lo : Nibble) : LcdWf (lcdCommand f hi lo l) := by
  unfold lcdCommand
  repeat' split
  all_goals first | exact h | exact ⟨Memory.wf_nil .ddram, h.2⟩

theorem lcdLatch_wf {l : Lcd} (h : LcdWf l) (u : Nibble) (f : AddrCounter) (rs : Bool) (n : Nibble) :
    LcdWf (lcdLatch u f rs n l) := by
  have hp : LcdWf { l with pending := none } := h
  unfold lcdLatch lcdReceive
  split
  · split
    · exact h
    · split
      · exact lcdData_wf hp _
      · exact lcdCommand_wf hp _ _ _
  · split
    · exact lcdData_wf hp _
    · exact lcdCommand_wf hp _ _ _

theorem lcdSee_wf {l : Lcd} (h : LcdWf l) (p : Params) (c : Controller) (k : Nat) (v w : Byte) :
    LcdWf (lcdSee p c k v w l) := by
  unfold lcdSee
  split
  · exact lcdLatch_wf h _ _ _ _
  · exact h

/-- In 4-bit mode at a byte boundary two latches are one byte, the high nibble first (spec R75). -/
theorem lcdLatch_pair {l : Lcd} (h4 : l.fourBit = true) (hp : l.pending = none) (u v : Nibble) (f g : AddrCounter)
    (r rs : Bool) (hi lo : Nibble) : lcdLatch v g rs lo (lcdLatch u f r hi l) = lcdReceive g rs hi lo l := by
  obtain ⟨b, q⟩ := l
  simp only at h4 hp
  subst h4 hp
  rfl

theorem lcdReceive_data (g : AddrCounter) (d : Byte) (l : Lcd) :
    lcdReceive g true (highNibble d) (lowNibble d) l = lcdData d l := by
  have : (highNibble d ++ lowNibble d : Byte) = d := by
    apply BitVec.eq_of_getLsbD_eq
    intro k hk
    simp only [highNibble, lowNibble, BitVec.getLsbD_append, BitVec.getLsbD_extractLsb']
    by_cases h : k < 4
    · simp [h]
    · have h4 : k - 4 < 4 := by omega
      have hk4 : 4 + (k - 4) = k := by omega
      simp [h, h4, hk4]
  simp only [lcdReceive, if_true, this]

theorem lcdReceive_setDdram (g : AddrCounter) (a : BitVec 7) (l : Lcd) :
    lcdReceive g false (highNibble (setDdramByte a)) (lowNibble (setDdramByte a)) l = lcdSetDdram a l := by
  have h3 : (highNibble (setDdramByte a)).getLsbD 3 = true := by revert a; decide
  have ha : (highNibble (setDdramByte a)).extractLsb' 0 3 ++ lowNibble (setDdramByte a) = a := by revert a; decide
  simp only [lcdReceive, lcdCommand, h3, ha, if_true, Bool.false_eq_true, if_false]

theorem lcdReceive_setCgram (g : AddrCounter) (a : BitVec 6) (l : Lcd) :
    lcdReceive g false (highNibble (setCgramByte a)) (lowNibble (setCgramByte a)) l = lcdSetCgram a l := by
  have h3 : (highNibble (setCgramByte a)).getLsbD 3 = false := by revert a; decide
  have h2 : (highNibble (setCgramByte a)).getLsbD 2 = true := by revert a; decide
  have ha : (highNibble (setCgramByte a)).extractLsb' 0 2 ++ lowNibble (setCgramByte a) = a := by revert a; decide
  simp only [lcdReceive, lcdCommand, h3, h2, ha, if_true, Bool.false_eq_true, if_false]

theorem lcdReceive_functionSet (g : AddrCounter) (l : Lcd) :
    lcdReceive g false (highNibble functionSetByte) (lowNibble functionSetByte) l = lcdFunctionSet false true false l := rfl

theorem lcdReceive_displayOff (g : AddrCounter) (l : Lcd) :
    lcdReceive g false (highNibble displayOffByte) (lowNibble displayOffByte) l = lcdDisplayControl false false false l := rfl

theorem lcdReceive_clear (g : AddrCounter) (l : Lcd) :
    lcdReceive g false (highNibble clearDisplayByte) (lowNibble clearDisplayByte) l = lcdClear l := rfl

theorem lcdReceive_entryMode (g : AddrCounter) (l : Lcd) :
    lcdReceive g false (highNibble entryModeByte) (lowNibble entryModeByte) l = lcdEntryMode true false l := rfl

theorem lcdReceive_displayOn (g : AddrCounter) (l : Lcd) :
    lcdReceive g false (highNibble displayOnByte) (lowNibble displayOnByte) l = lcdDisplayControl true false false l := rfl

/-- A run of data bytes that stays inside the DDRAM (spec R62): stored from the address counter on. -/
theorem lcdDataAll_ddram {l : Lcd} (hi : l.increment = true) {a : BitVec 7} (ha : l.addr = .ddram a) {ds : List Byte}
    (hb : a.toNat + ds.length ≤ 128) :
    ∃ x, lcdDataAll ds l = { l with ddram := Memory.writeAll .ddram l.ddram a.toNat ds, addr := x } ∧
      (a.toNat + ds.length < 128 → x = .ddram (BitVec.ofNat 7 (a.toNat + ds.length))) := by
  induction ds generalizing l a with
  | nil => exact ⟨l.addr, rfl, fun _ => by simp [ha]⟩
  | cons d rest ih =>
    simp only [List.length_cons] at hb
    have hstep : lcdData d l =
        { l with ddram := Memory.write .ddram l.ddram a.toNat d, addr := nextAddr true (.ddram a) } := by
      simp [lcdData, ha, hi]
    by_cases hlast : a = 0x7F
    · have hn : a.toNat = 127 := by rw [hlast]; rfl
      have hr : rest = [] := List.eq_nil_of_length_eq_zero (by omega)
      subst hr
      refine ⟨nextAddr true (.ddram a), ?_, fun h => ?_⟩
      · simp only [lcdDataAll, List.foldl_cons, List.foldl_nil, hstep, Memory.writeAll]
      · simp only [List.length_cons] at h; omega
    · have hne : a.toNat ≠ 127 := fun h => hlast (BitVec.eq_of_toNat_eq h)
      have hlt := a.isLt
      have hadd : (a + 1).toNat = a.toNat + 1 := by
        rw [BitVec.toNat_add, show (1 : BitVec 7).toNat = 1 from rfl]; omega
      have hnext : nextAddr true (.ddram a) = .ddram (a + 1) := by simp only [nextAddr, if_true, hlast, if_false]
      rw [hnext] at hstep
      obtain ⟨x, hx, hxa⟩ := ih (l := lcdData d l) (a := a + 1) (by rw [hstep]; exact hi) (by rw [hstep])
        (by rw [hadd]; omega)
      refine ⟨x, ?_, fun h => ?_⟩
      · show lcdDataAll rest (lcdData d l) = _
        rw [hx, hstep, hadd]; rfl
      · simp only [List.length_cons] at h
        have := hxa (by rw [hadd]; omega)
        rw [this, hadd, List.length_cons]
        congr 2; omega

/-- The same for the CGRAM. -/
theorem lcdDataAll_cgram {l : Lcd} (hi : l.increment = true) {a : BitVec 6} (ha : l.addr = .cgram a) {ds : List Byte}
    (hb : a.toNat + ds.length ≤ 64) :
    ∃ x, lcdDataAll ds l = { l with cgram := Memory.writeAll .cgram l.cgram a.toNat ds, addr := x } := by
  induction ds generalizing l a with
  | nil => exact ⟨l.addr, rfl⟩
  | cons d rest ih =>
    simp only [List.length_cons] at hb
    have hstep : lcdData d l =
        { l with cgram := Memory.write .cgram l.cgram a.toNat d, addr := nextAddr true (.cgram a) } := by
      simp [lcdData, ha, hi]
    by_cases hlast : a = 0x3F
    · have hn : a.toNat = 63 := by rw [hlast]; rfl
      have hr : rest = [] := List.eq_nil_of_length_eq_zero (by omega)
      subst hr
      exact ⟨nextAddr true (.cgram a), by
        simp only [lcdDataAll, List.foldl_cons, List.foldl_nil, hstep, Memory.writeAll]⟩
    · have hne : a.toNat ≠ 63 := fun h => hlast (BitVec.eq_of_toNat_eq h)
      have hlt := a.isLt
      have hadd : (a + 1).toNat = a.toNat + 1 := by
        rw [BitVec.toNat_add, show (1 : BitVec 6).toNat = 1 from rfl]; omega
      have hnext : nextAddr true (.cgram a) = .cgram (a + 1) := by simp only [nextAddr, if_true, hlast, if_false]
      rw [hnext] at hstep
      obtain ⟨x, hx⟩ := ih (l := lcdData d l) (a := a + 1) (by rw [hstep]; exact hi) (by rw [hstep])
        (by rw [hadd]; omega)
      refine ⟨x, ?_⟩
      show lcdDataAll rest (lcdData d l) = _
      rw [hx, hstep, hadd]; rfl

/-- Data bytes change neither a sink's mode nor its phase. -/
theorem lcdData_mode (d : Byte) (l : Lcd) :
    (lcdData d l).fourBit = l.fourBit ∧ (lcdData d l).pending = l.pending ∧ (lcdData d l).twoLine = l.twoLine ∧
    (lcdData d l).largeFont = l.largeFont ∧ (lcdData d l).displayOn = l.displayOn ∧
    (lcdData d l).cursorOn = l.cursorOn ∧ (lcdData d l).blinkOn = l.blinkOn ∧
    (lcdData d l).increment = l.increment ∧ (lcdData d l).shiftOn = l.shiftOn := by
  unfold lcdData
  cases l.addr <;> simp

end Sys2Proof.Machine
end

