-- ==== Sys2Proof/Laws/PerInstr.lean ====
section
/-! SUPPORT. A fact per instruction about its encoding (spec/30_encoding.md R80, R93): a well-formed host operation is
encoded in at least its opcode's fixed part, an LCD row in one byte. -/
namespace Sys2Proof.Laws.EncodedLength

/-- The length of an instruction's encoding: R93's fixed part for a host frame, one byte for an LCD row. -/
def Statement (i : Instr) : Prop :=
  i.wellFormed = true →
    (i.layer = .hostFrame → ∃ opcode args, encode i = opcode :: args ∧ fixedLength opcode.toNat ≤ args.length + 1) ∧
    (i.layer ≠ .hostFrame → (encode i).length = 1)

/-- A reserved opcode's fixed part is the opcode alone (R85). -/
theorem fixedLength_reserved (n : Nat) (h : 0x0E ≤ n) : fixedLength n = 1 := by
  unfold fixedLength
  split <;> omega

theorem nop : Statement .nop :=
  fun _ => ⟨fun _ => ⟨_, _, rfl, by decide⟩, fun h => absurd rfl h⟩

theorem connect : Statement .connect :=
  fun _ => ⟨fun _ => ⟨_, _, rfl, by decide⟩, fun h => absurd rfl h⟩

theorem disconnect : Statement .disconnect :=
  fun _ => ⟨fun _ => ⟨_, _, rfl, by decide⟩, fun h => absurd rfl h⟩

theorem print (line : Byte) (text : List Byte) : Statement (.print line text) :=
  fun _ => ⟨fun _ => ⟨_, _, rfl, by simp [fixedLength]⟩, fun h => absurd rfl h⟩

theorem clearLine (line : Byte) : Statement (.clearLine line) :=
  fun _ => ⟨fun _ => ⟨_, _, rfl, by simp [fixedLength]⟩, fun h => absurd rfl h⟩

theorem clearDisplay : Statement .clearDisplay :=
  fun _ => ⟨fun _ => ⟨_, _, rfl, by decide⟩, fun h => absurd rfl h⟩

theorem backlight (enable : Bool) : Statement (.backlight enable) :=
  fun _ => ⟨fun _ => ⟨_, _, rfl, by simp [fixedLength]⟩, fun h => absurd rfl h⟩

theorem setCgram (address : BitVec 6) (pattern : List Byte) : Statement (.setCgram address pattern) :=
  fun h => ⟨fun _ => ⟨_, _, rfl, by simp_all [Instr.wellFormed, patternOk, fixedLength]⟩, fun h => absurd rfl h⟩

theorem setCgramAuto (pattern : List Byte) : Statement (.setCgramAuto pattern) :=
  fun h => ⟨fun _ => ⟨_, _, rfl, by simp_all [Instr.wellFormed, patternOk, fixedLength]⟩, fun h => absurd rfl h⟩

theorem initBargraph : Statement .initBargraph :=
  fun _ => ⟨fun _ => ⟨_, _, rfl, by decide⟩, fun h => absurd rfl h⟩

theorem hasBacklight : Statement .hasBacklight :=
  fun _ => ⟨fun _ => ⟨_, _, rfl, by decide⟩, fun h => absurd rfl h⟩

theorem getWidth : Statement .getWidth :=
  fun _ => ⟨fun _ => ⟨_, _, rfl, by decide⟩, fun h => absurd rfl h⟩

theorem getHeight : Statement .getHeight :=
  fun _ => ⟨fun _ => ⟨_, _, rfl, by decide⟩, fun h => absurd rfl h⟩

theorem bargraph (line : Byte) (value : Byte) : Statement (.bargraph line value) :=
  fun _ => ⟨fun _ => ⟨_, _, rfl, by simp [fixedLength]⟩, fun h => absurd rfl h⟩

theorem reserved (opcode : Byte) : Statement (.reserved opcode) :=
  fun h => ⟨fun _ => ⟨_, _, rfl, by
    rw [fixedLength_reserved _ (by simpa [Instr.wellFormed, reservedOk] using h)]; simp⟩, fun h => absurd rfl h⟩

theorem lcdSetDdramAddr (a : BitVec 7) : Statement (.lcdSetDdramAddr a) :=
  fun _ => ⟨fun h => by simp [Instr.layer] at h, fun _ => rfl⟩

theorem lcdSetCgramAddr (a : BitVec 6) : Statement (.lcdSetCgramAddr a) :=
  fun _ => ⟨fun h => by simp [Instr.layer] at h, fun _ => rfl⟩

theorem lcdFunctionSet : Statement .lcdFunctionSet :=
  fun _ => ⟨fun h => by simp [Instr.layer] at h, fun _ => rfl⟩

theorem lcdDisplayOff : Statement .lcdDisplayOff :=
  fun _ => ⟨fun h => by simp [Instr.layer] at h, fun _ => rfl⟩

theorem lcdClearDisplay : Statement .lcdClearDisplay :=
  fun _ => ⟨fun h => by simp [Instr.layer] at h, fun _ => rfl⟩

theorem lcdEntryMode : Statement .lcdEntryMode :=
  fun _ => ⟨fun h => by simp [Instr.layer] at h, fun _ => rfl⟩

theorem lcdDisplayOn : Statement .lcdDisplayOn :=
  fun _ => ⟨fun h => by simp [Instr.layer] at h, fun _ => rfl⟩

theorem lcdForce8bit : Statement .lcdForce8bit :=
  fun _ => ⟨fun h => by simp [Instr.layer] at h, fun _ => rfl⟩

theorem lcdSwitch4bit : Statement .lcdSwitch4bit :=
  fun _ => ⟨fun h => by simp [Instr.layer] at h, fun _ => rfl⟩

theorem lcdData (d : Byte) : Statement (.lcdData d) :=
  fun _ => ⟨fun h => by simp [Instr.layer] at h, fun _ => rfl⟩

end Sys2Proof.Laws.EncodedLength
end

