-- ==== Sys2Proof/Laws/State.lean ====
section
/-! SUPPORT. One lemma per field per register update, true by rfl, so that no later proof unfolds a record update. -/
namespace Sys2Proof.Machine

/-! ## setEngState -/

@[simp] theorem setEngState_cfg (e : EngState) (s : State) : (setEngState e s).cfg = s.cfg := rfl
@[simp] theorem setEngState_engState (e : EngState) (s : State) : (setEngState e s).engState = e := rfl
@[simp] theorem setEngState_initState (e : EngState) (s : State) : (setEngState e s).initState = s.initState := rfl
@[simp] theorem setEngState_active (e : EngState) (s : State) : (setEngState e s).active = s.active := rfl
@[simp] theorem setEngState_rs (e : EngState) (s : State) : (setEngState e s).rs = s.rs := rfl
@[simp] theorem setEngState_dw (e : EngState) (s : State) : (setEngState e s).dw = s.dw := rfl
@[simp] theorem setEngState_err (e : EngState) (s : State) : (setEngState e s).err = s.err := rfl
@[simp] theorem setEngState_cached (e : EngState) (s : State) : (setEngState e s).cached = s.cached := rfl
@[simp] theorem setEngState_opened (e : EngState) (s : State) : (setEngState e s).opened = s.opened := rfl
@[simp] theorem setEngState_hostIn (e : EngState) (s : State) : (setEngState e s).hostIn = s.hostIn := rfl
@[simp] theorem setEngState_results (e : EngState) (s : State) : (setEngState e s).results = s.results := rfl
@[simp] theorem setEngState_oracle (e : EngState) (s : State) : (setEngState e s).oracle = s.oracle := rfl
@[simp] theorem setEngState_drawn (e : EngState) (s : State) : (setEngState e s).drawn = s.drawn := rfl
@[simp] theorem setEngState_log (e : EngState) (s : State) : (setEngState e s).log = s.log := rfl
@[simp] theorem setEngState_lcd1 (e : EngState) (s : State) : (setEngState e s).lcd1 = s.lcd1 := rfl
@[simp] theorem setEngState_lcd2 (e : EngState) (s : State) : (setEngState e s).lcd2 = s.lcd2 := rfl

/-! ## setInitState -/

@[simp] theorem setInitState_cfg (i : InitState) (s : State) : (setInitState i s).cfg = s.cfg := rfl
@[simp] theorem setInitState_engState (i : InitState) (s : State) : (setInitState i s).engState = s.engState := rfl
@[simp] theorem setInitState_initState (i : InitState) (s : State) : (setInitState i s).initState = i := rfl
@[simp] theorem setInitState_active (i : InitState) (s : State) : (setInitState i s).active = s.active := rfl
@[simp] theorem setInitState_rs (i : InitState) (s : State) : (setInitState i s).rs = s.rs := rfl
@[simp] theorem setInitState_dw (i : InitState) (s : State) : (setInitState i s).dw = s.dw := rfl
@[simp] theorem setInitState_err (i : InitState) (s : State) : (setInitState i s).err = s.err := rfl
@[simp] theorem setInitState_cached (i : InitState) (s : State) : (setInitState i s).cached = s.cached := rfl
@[simp] theorem setInitState_opened (i : InitState) (s : State) : (setInitState i s).opened = s.opened := rfl
@[simp] theorem setInitState_hostIn (i : InitState) (s : State) : (setInitState i s).hostIn = s.hostIn := rfl
@[simp] theorem setInitState_results (i : InitState) (s : State) : (setInitState i s).results = s.results := rfl
@[simp] theorem setInitState_oracle (i : InitState) (s : State) : (setInitState i s).oracle = s.oracle := rfl
@[simp] theorem setInitState_drawn (i : InitState) (s : State) : (setInitState i s).drawn = s.drawn := rfl
@[simp] theorem setInitState_log (i : InitState) (s : State) : (setInitState i s).log = s.log := rfl
@[simp] theorem setInitState_lcd1 (i : InitState) (s : State) : (setInitState i s).lcd1 = s.lcd1 := rfl
@[simp] theorem setInitState_lcd2 (i : InitState) (s : State) : (setInitState i s).lcd2 = s.lcd2 := rfl

/-! ## setRs -/

@[simp] theorem setRs_cfg (v : Byte) (s : State) : (setRs v s).cfg = s.cfg := rfl
@[simp] theorem setRs_engState (v : Byte) (s : State) : (setRs v s).engState = s.engState := rfl
@[simp] theorem setRs_initState (v : Byte) (s : State) : (setRs v s).initState = s.initState := rfl
@[simp] theorem setRs_active (v : Byte) (s : State) : (setRs v s).active = s.active := rfl
@[simp] theorem setRs_rs (v : Byte) (s : State) : (setRs v s).rs = v := rfl
@[simp] theorem setRs_dw (v : Byte) (s : State) : (setRs v s).dw = s.dw := rfl
@[simp] theorem setRs_err (v : Byte) (s : State) : (setRs v s).err = s.err := rfl
@[simp] theorem setRs_cached (v : Byte) (s : State) : (setRs v s).cached = s.cached := rfl
@[simp] theorem setRs_opened (v : Byte) (s : State) : (setRs v s).opened = s.opened := rfl
@[simp] theorem setRs_hostIn (v : Byte) (s : State) : (setRs v s).hostIn = s.hostIn := rfl
@[simp] theorem setRs_results (v : Byte) (s : State) : (setRs v s).results = s.results := rfl
@[simp] theorem setRs_oracle (v : Byte) (s : State) : (setRs v s).oracle = s.oracle := rfl
@[simp] theorem setRs_drawn (v : Byte) (s : State) : (setRs v s).drawn = s.drawn := rfl
@[simp] theorem setRs_log (v : Byte) (s : State) : (setRs v s).log = s.log := rfl
@[simp] theorem setRs_lcd1 (v : Byte) (s : State) : (setRs v s).lcd1 = s.lcd1 := rfl
@[simp] theorem setRs_lcd2 (v : Byte) (s : State) : (setRs v s).lcd2 = s.lcd2 := rfl

/-! ## setDw -/

@[simp] theorem setDw_cfg (b : Bool) (s : State) : (setDw b s).cfg = s.cfg := rfl
@[simp] theorem setDw_engState (b : Bool) (s : State) : (setDw b s).engState = s.engState := rfl
@[simp] theorem setDw_initState (b : Bool) (s : State) : (setDw b s).initState = s.initState := rfl
@[simp] theorem setDw_active (b : Bool) (s : State) : (setDw b s).active = s.active := rfl
@[simp] theorem setDw_rs (b : Bool) (s : State) : (setDw b s).rs = s.rs := rfl
@[simp] theorem setDw_dw (b : Bool) (s : State) : (setDw b s).dw = b := rfl
@[simp] theorem setDw_err (b : Bool) (s : State) : (setDw b s).err = s.err := rfl
@[simp] theorem setDw_cached (b : Bool) (s : State) : (setDw b s).cached = s.cached := rfl
@[simp] theorem setDw_opened (b : Bool) (s : State) : (setDw b s).opened = s.opened := rfl
@[simp] theorem setDw_hostIn (b : Bool) (s : State) : (setDw b s).hostIn = s.hostIn := rfl
@[simp] theorem setDw_results (b : Bool) (s : State) : (setDw b s).results = s.results := rfl
@[simp] theorem setDw_oracle (b : Bool) (s : State) : (setDw b s).oracle = s.oracle := rfl
@[simp] theorem setDw_drawn (b : Bool) (s : State) : (setDw b s).drawn = s.drawn := rfl
@[simp] theorem setDw_log (b : Bool) (s : State) : (setDw b s).log = s.log := rfl
@[simp] theorem setDw_lcd1 (b : Bool) (s : State) : (setDw b s).lcd1 = s.lcd1 := rfl
@[simp] theorem setDw_lcd2 (b : Bool) (s : State) : (setDw b s).lcd2 = s.lcd2 := rfl

/-! ## select -/

@[simp] theorem select_cfg (c : Controller) (s : State) : (select c s).cfg = s.cfg := rfl
@[simp] theorem select_engState (c : Controller) (s : State) : (select c s).engState = s.engState := rfl
@[simp] theorem select_initState (c : Controller) (s : State) : (select c s).initState = s.initState := rfl
@[simp] theorem select_active (c : Controller) (s : State) : (select c s).active = c := rfl
@[simp] theorem select_rs (c : Controller) (s : State) : (select c s).rs = s.rs := rfl
@[simp] theorem select_dw (c : Controller) (s : State) : (select c s).dw = s.dw := rfl
@[simp] theorem select_err (c : Controller) (s : State) : (select c s).err = s.err := rfl
@[simp] theorem select_cached (c : Controller) (s : State) : (select c s).cached = s.cached := rfl
@[simp] theorem select_opened (c : Controller) (s : State) : (select c s).opened = s.opened := rfl
@[simp] theorem select_hostIn (c : Controller) (s : State) : (select c s).hostIn = s.hostIn := rfl
@[simp] theorem select_results (c : Controller) (s : State) : (select c s).results = s.results := rfl
@[simp] theorem select_oracle (c : Controller) (s : State) : (select c s).oracle = s.oracle := rfl
@[simp] theorem select_drawn (c : Controller) (s : State) : (select c s).drawn = s.drawn := rfl
@[simp] theorem select_log (c : Controller) (s : State) : (select c s).log = s.log := rfl
@[simp] theorem select_lcd1 (c : Controller) (s : State) : (select c s).lcd1 = s.lcd1 := rfl
@[simp] theorem select_lcd2 (c : Controller) (s : State) : (select c s).lcd2 = s.lcd2 := rfl

/-! ## returnByte -/

@[simp] theorem returnByte_cfg (b : Byte) (s : State) : (returnByte b s).cfg = s.cfg := rfl
@[simp] theorem returnByte_engState (b : Byte) (s : State) : (returnByte b s).engState = s.engState := rfl
@[simp] theorem returnByte_initState (b : Byte) (s : State) : (returnByte b s).initState = s.initState := rfl
@[simp] theorem returnByte_active (b : Byte) (s : State) : (returnByte b s).active = s.active := rfl
@[simp] theorem returnByte_rs (b : Byte) (s : State) : (returnByte b s).rs = s.rs := rfl
@[simp] theorem returnByte_dw (b : Byte) (s : State) : (returnByte b s).dw = s.dw := rfl
@[simp] theorem returnByte_err (b : Byte) (s : State) : (returnByte b s).err = s.err := rfl
@[simp] theorem returnByte_cached (b : Byte) (s : State) : (returnByte b s).cached = s.cached := rfl
@[simp] theorem returnByte_opened (b : Byte) (s : State) : (returnByte b s).opened = s.opened := rfl
@[simp] theorem returnByte_hostIn (b : Byte) (s : State) : (returnByte b s).hostIn = s.hostIn := rfl
@[simp] theorem returnByte_results (b : Byte) (s : State) : (returnByte b s).results = s.results ++ [b] := rfl
@[simp] theorem returnByte_oracle (b : Byte) (s : State) : (returnByte b s).oracle = s.oracle := rfl
@[simp] theorem returnByte_drawn (b : Byte) (s : State) : (returnByte b s).drawn = s.drawn := rfl
@[simp] theorem returnByte_log (b : Byte) (s : State) : (returnByte b s).log = s.log := rfl
@[simp] theorem returnByte_lcd1 (b : Byte) (s : State) : (returnByte b s).lcd1 = s.lcd1 := rfl
@[simp] theorem returnByte_lcd2 (b : Byte) (s : State) : (returnByte b s).lcd2 = s.lcd2 := rfl

/-! ## record -/

@[simp] theorem record_cfg (e : Event) (s : State) : (record e s).cfg = s.cfg := rfl
@[simp] theorem record_engState (e : Event) (s : State) : (record e s).engState = s.engState := rfl
@[simp] theorem record_initState (e : Event) (s : State) : (record e s).initState = s.initState := rfl
@[simp] theorem record_active (e : Event) (s : State) : (record e s).active = s.active := rfl
@[simp] theorem record_rs (e : Event) (s : State) : (record e s).rs = s.rs := rfl
@[simp] theorem record_dw (e : Event) (s : State) : (record e s).dw = s.dw := rfl
@[simp] theorem record_err (e : Event) (s : State) : (record e s).err = s.err := rfl
@[simp] theorem record_cached (e : Event) (s : State) : (record e s).cached = s.cached := rfl
@[simp] theorem record_opened (e : Event) (s : State) : (record e s).opened = s.opened := rfl
@[simp] theorem record_hostIn (e : Event) (s : State) : (record e s).hostIn = s.hostIn := rfl
@[simp] theorem record_results (e : Event) (s : State) : (record e s).results = s.results := rfl
@[simp] theorem record_oracle (e : Event) (s : State) : (record e s).oracle = s.oracle := rfl
@[simp] theorem record_drawn (e : Event) (s : State) : (record e s).drawn = s.drawn := rfl
@[simp] theorem record_log (e : Event) (s : State) : (record e s).log = s.log ++ [e] := rfl
@[simp] theorem record_lcd1 (e : Event) (s : State) : (record e s).lcd1 = s.lcd1 := rfl
@[simp] theorem record_lcd2 (e : Event) (s : State) : (record e s).lcd2 = s.lcd2 := rfl

/-! ## takeAnswer -/

@[simp] theorem takeAnswer_cfg (s : State) : (takeAnswer s).cfg = s.cfg := rfl
@[simp] theorem takeAnswer_engState (s : State) : (takeAnswer s).engState = s.engState := rfl
@[simp] theorem takeAnswer_initState (s : State) : (takeAnswer s).initState = s.initState := rfl
@[simp] theorem takeAnswer_active (s : State) : (takeAnswer s).active = s.active := rfl
@[simp] theorem takeAnswer_rs (s : State) : (takeAnswer s).rs = s.rs := rfl
@[simp] theorem takeAnswer_dw (s : State) : (takeAnswer s).dw = s.dw := rfl
@[simp] theorem takeAnswer_err (s : State) : (takeAnswer s).err = s.err := rfl
@[simp] theorem takeAnswer_cached (s : State) : (takeAnswer s).cached = s.cached := rfl
@[simp] theorem takeAnswer_opened (s : State) : (takeAnswer s).opened = s.opened := rfl
@[simp] theorem takeAnswer_hostIn (s : State) : (takeAnswer s).hostIn = s.hostIn := rfl
@[simp] theorem takeAnswer_results (s : State) : (takeAnswer s).results = s.results := rfl
@[simp] theorem takeAnswer_oracle (s : State) : (takeAnswer s).oracle = s.oracle.tail := rfl
@[simp] theorem takeAnswer_drawn (s : State) : (takeAnswer s).drawn = s.drawn + 1 := rfl
@[simp] theorem takeAnswer_log (s : State) : (takeAnswer s).log = s.log := rfl
@[simp] theorem takeAnswer_lcd1 (s : State) : (takeAnswer s).lcd1 = s.lcd1 := rfl
@[simp] theorem takeAnswer_lcd2 (s : State) : (takeAnswer s).lcd2 = s.lcd2 := rfl

/-! ## commit -/

@[simp] theorem commit_cfg (v : Byte) (s : State) : (commit v s).cfg = s.cfg := rfl
@[simp] theorem commit_engState (v : Byte) (s : State) : (commit v s).engState = s.engState := rfl
@[simp] theorem commit_initState (v : Byte) (s : State) : (commit v s).initState = s.initState := rfl
@[simp] theorem commit_active (v : Byte) (s : State) : (commit v s).active = s.active := rfl
@[simp] theorem commit_rs (v : Byte) (s : State) : (commit v s).rs = s.rs := rfl
@[simp] theorem commit_dw (v : Byte) (s : State) : (commit v s).dw = s.dw := rfl
@[simp] theorem commit_err (v : Byte) (s : State) : (commit v s).err = s.err := rfl
@[simp] theorem commit_cached (v : Byte) (s : State) : (commit v s).cached = v := rfl
@[simp] theorem commit_opened (v : Byte) (s : State) : (commit v s).opened = s.opened := rfl
@[simp] theorem commit_hostIn (v : Byte) (s : State) : (commit v s).hostIn = s.hostIn := rfl
@[simp] theorem commit_results (v : Byte) (s : State) : (commit v s).results = s.results := rfl
@[simp] theorem commit_oracle (v : Byte) (s : State) : (commit v s).oracle = s.oracle := rfl
@[simp] theorem commit_drawn (v : Byte) (s : State) : (commit v s).drawn = s.drawn := rfl
@[simp] theorem commit_log (v : Byte) (s : State) : (commit v s).log = s.log := rfl
@[simp] theorem commit_lcd1 (v : Byte) (s : State) : (commit v s).lcd1 = lcdSee s.cfg .one s.drawn s.cached v s.lcd1 := rfl
@[simp] theorem commit_lcd2 (v : Byte) (s : State) : (commit v s).lcd2 = lcdSee s.cfg .two s.drawn s.cached v s.lcd2 := rfl

/-! ## noteResult -/

@[simp] theorem noteResult_cfg (ok : Bool) (s : State) : (noteResult ok s).cfg = s.cfg := rfl
@[simp] theorem noteResult_engState (ok : Bool) (s : State) : (noteResult ok s).engState = s.engState := rfl
@[simp] theorem noteResult_initState (ok : Bool) (s : State) : (noteResult ok s).initState = s.initState := rfl
@[simp] theorem noteResult_active (ok : Bool) (s : State) : (noteResult ok s).active = s.active := rfl
@[simp] theorem noteResult_rs (ok : Bool) (s : State) : (noteResult ok s).rs = s.rs := rfl
@[simp] theorem noteResult_dw (ok : Bool) (s : State) : (noteResult ok s).dw = s.dw := rfl
@[simp] theorem noteResult_err (ok : Bool) (s : State) : (noteResult ok s).err = (s.err || !ok) := rfl
@[simp] theorem noteResult_cached (ok : Bool) (s : State) : (noteResult ok s).cached = s.cached := rfl
@[simp] theorem noteResult_opened (ok : Bool) (s : State) : (noteResult ok s).opened = s.opened := rfl
@[simp] theorem noteResult_hostIn (ok : Bool) (s : State) : (noteResult ok s).hostIn = s.hostIn := rfl
@[simp] theorem noteResult_results (ok : Bool) (s : State) : (noteResult ok s).results = s.results := rfl
@[simp] theorem noteResult_oracle (ok : Bool) (s : State) : (noteResult ok s).oracle = s.oracle := rfl
@[simp] theorem noteResult_drawn (ok : Bool) (s : State) : (noteResult ok s).drawn = s.drawn := rfl
@[simp] theorem noteResult_log (ok : Bool) (s : State) : (noteResult ok s).log = s.log := rfl
@[simp] theorem noteResult_lcd1 (ok : Bool) (s : State) : (noteResult ok s).lcd1 = s.lcd1 := rfl
@[simp] theorem noteResult_lcd2 (ok : Bool) (s : State) : (noteResult ok s).lcd2 = s.lcd2 := rfl

/-! ## clearErr -/

@[simp] theorem clearErr_cfg (s : State) : (clearErr s).cfg = s.cfg := rfl
@[simp] theorem clearErr_engState (s : State) : (clearErr s).engState = s.engState := rfl
@[simp] theorem clearErr_initState (s : State) : (clearErr s).initState = s.initState := rfl
@[simp] theorem clearErr_active (s : State) : (clearErr s).active = s.active := rfl
@[simp] theorem clearErr_rs (s : State) : (clearErr s).rs = s.rs := rfl
@[simp] theorem clearErr_dw (s : State) : (clearErr s).dw = s.dw := rfl
@[simp] theorem clearErr_err (s : State) : (clearErr s).err = false := rfl
@[simp] theorem clearErr_cached (s : State) : (clearErr s).cached = s.cached := rfl
@[simp] theorem clearErr_opened (s : State) : (clearErr s).opened = s.opened := rfl
@[simp] theorem clearErr_hostIn (s : State) : (clearErr s).hostIn = s.hostIn := rfl
@[simp] theorem clearErr_results (s : State) : (clearErr s).results = s.results := rfl
@[simp] theorem clearErr_oracle (s : State) : (clearErr s).oracle = s.oracle := rfl
@[simp] theorem clearErr_drawn (s : State) : (clearErr s).drawn = s.drawn := rfl
@[simp] theorem clearErr_log (s : State) : (clearErr s).log = s.log := rfl
@[simp] theorem clearErr_lcd1 (s : State) : (clearErr s).lcd1 = s.lcd1 := rfl
@[simp] theorem clearErr_lcd2 (s : State) : (clearErr s).lcd2 = s.lcd2 := rfl

/-! ## openPort -/

@[simp] theorem openPort_cfg (s : State) : (openPort s).cfg = s.cfg := rfl
@[simp] theorem openPort_engState (s : State) : (openPort s).engState = s.engState := rfl
@[simp] theorem openPort_initState (s : State) : (openPort s).initState = s.initState := rfl
@[simp] theorem openPort_active (s : State) : (openPort s).active = s.active := rfl
@[simp] theorem openPort_rs (s : State) : (openPort s).rs = s.rs := rfl
@[simp] theorem openPort_dw (s : State) : (openPort s).dw = s.dw := rfl
@[simp] theorem openPort_err (s : State) : (openPort s).err = s.err := rfl
@[simp] theorem openPort_cached (s : State) : (openPort s).cached = s.cfg.portInit := rfl
@[simp] theorem openPort_opened (s : State) : (openPort s).opened = true := rfl
@[simp] theorem openPort_hostIn (s : State) : (openPort s).hostIn = s.hostIn := rfl
@[simp] theorem openPort_results (s : State) : (openPort s).results = s.results := rfl
@[simp] theorem openPort_oracle (s : State) : (openPort s).oracle = s.oracle := rfl
@[simp] theorem openPort_drawn (s : State) : (openPort s).drawn = s.drawn := rfl
@[simp] theorem openPort_log (s : State) : (openPort s).log = s.log ++ [.opened] := rfl
@[simp] theorem openPort_lcd1 (s : State) : (openPort s).lcd1 = s.lcd1 := rfl
@[simp] theorem openPort_lcd2 (s : State) : (openPort s).lcd2 = s.lcd2 := rfl

/-! ## delayInit -/

@[simp] theorem delayInit_cfg (s : State) : (delayInit s).cfg = s.cfg := rfl
@[simp] theorem delayInit_engState (s : State) : (delayInit s).engState = s.engState := rfl
@[simp] theorem delayInit_initState (s : State) : (delayInit s).initState = s.initState := rfl
@[simp] theorem delayInit_active (s : State) : (delayInit s).active = s.active := rfl
@[simp] theorem delayInit_rs (s : State) : (delayInit s).rs = s.rs := rfl
@[simp] theorem delayInit_dw (s : State) : (delayInit s).dw = s.dw := rfl
@[simp] theorem delayInit_err (s : State) : (delayInit s).err = s.err := rfl
@[simp] theorem delayInit_cached (s : State) : (delayInit s).cached = s.cached := rfl
@[simp] theorem delayInit_opened (s : State) : (delayInit s).opened = s.opened := rfl
@[simp] theorem delayInit_hostIn (s : State) : (delayInit s).hostIn = s.hostIn := rfl
@[simp] theorem delayInit_results (s : State) : (delayInit s).results = s.results := rfl
@[simp] theorem delayInit_oracle (s : State) : (delayInit s).oracle = s.oracle := rfl
@[simp] theorem delayInit_drawn (s : State) : (delayInit s).drawn = s.drawn := rfl
@[simp] theorem delayInit_log (s : State) : (delayInit s).log = s.log ++ [.delay s.cfg.tInit] := rfl
@[simp] theorem delayInit_lcd1 (s : State) : (delayInit s).lcd1 = s.lcd1 := rfl
@[simp] theorem delayInit_lcd2 (s : State) : (delayInit s).lcd2 = s.lcd2 := rfl

/-! ## submitFirst -/

@[simp] theorem submitFirst_cfg (f : List Byte) (s : State) : (submitFirst f s).cfg = s.cfg := rfl
@[simp] theorem submitFirst_engState (f : List Byte) (s : State) : (submitFirst f s).engState = s.engState := rfl
@[simp] theorem submitFirst_initState (f : List Byte) (s : State) : (submitFirst f s).initState = s.initState := rfl
@[simp] theorem submitFirst_active (f : List Byte) (s : State) : (submitFirst f s).active = s.active := rfl
@[simp] theorem submitFirst_rs (f : List Byte) (s : State) : (submitFirst f s).rs = s.rs := rfl
@[simp] theorem submitFirst_dw (f : List Byte) (s : State) : (submitFirst f s).dw = s.dw := rfl
@[simp] theorem submitFirst_err (f : List Byte) (s : State) : (submitFirst f s).err = s.err := rfl
@[simp] theorem submitFirst_cached (f : List Byte) (s : State) : (submitFirst f s).cached = s.cached := rfl
@[simp] theorem submitFirst_opened (f : List Byte) (s : State) : (submitFirst f s).opened = s.opened := rfl
@[simp] theorem submitFirst_hostIn (f : List Byte) (s : State) : (submitFirst f s).hostIn = sendFrame f ++ s.hostIn := rfl
@[simp] theorem submitFirst_results (f : List Byte) (s : State) : (submitFirst f s).results = s.results := rfl
@[simp] theorem submitFirst_oracle (f : List Byte) (s : State) : (submitFirst f s).oracle = s.oracle := rfl
@[simp] theorem submitFirst_drawn (f : List Byte) (s : State) : (submitFirst f s).drawn = s.drawn := rfl
@[simp] theorem submitFirst_log (f : List Byte) (s : State) : (submitFirst f s).log = s.log := rfl
@[simp] theorem submitFirst_lcd1 (f : List Byte) (s : State) : (submitFirst f s).lcd1 = s.lcd1 := rfl
@[simp] theorem submitFirst_lcd2 (f : List Byte) (s : State) : (submitFirst f s).lcd2 = s.lcd2 := rfl

/-! ## submit -/

@[simp] theorem submit_cfg (f : List Byte) (s : State) : (submit f s).cfg = s.cfg := rfl
@[simp] theorem submit_engState (f : List Byte) (s : State) : (submit f s).engState = s.engState := rfl
@[simp] theorem submit_initState (f : List Byte) (s : State) : (submit f s).initState = s.initState := rfl
@[simp] theorem submit_active (f : List Byte) (s : State) : (submit f s).active = s.active := rfl
@[simp] theorem submit_rs (f : List Byte) (s : State) : (submit f s).rs = s.rs := rfl
@[simp] theorem submit_dw (f : List Byte) (s : State) : (submit f s).dw = s.dw := rfl
@[simp] theorem submit_err (f : List Byte) (s : State) : (submit f s).err = s.err := rfl
@[simp] theorem submit_cached (f : List Byte) (s : State) : (submit f s).cached = s.cached := rfl
@[simp] theorem submit_opened (f : List Byte) (s : State) : (submit f s).opened = s.opened := rfl
@[simp] theorem submit_hostIn (f : List Byte) (s : State) : (submit f s).hostIn = s.hostIn ++ sendFrame f := rfl
@[simp] theorem submit_results (f : List Byte) (s : State) : (submit f s).results = s.results := rfl
@[simp] theorem submit_oracle (f : List Byte) (s : State) : (submit f s).oracle = s.oracle := rfl
@[simp] theorem submit_drawn (f : List Byte) (s : State) : (submit f s).drawn = s.drawn := rfl
@[simp] theorem submit_log (f : List Byte) (s : State) : (submit f s).log = s.log := rfl
@[simp] theorem submit_lcd1 (f : List Byte) (s : State) : (submit f s).lcd1 = s.lcd1 := rfl
@[simp] theorem submit_lcd2 (f : List Byte) (s : State) : (submit f s).lcd2 = s.lcd2 := rfl

/-! ## resetEngine -/

@[simp] theorem resetEngine_cfg (s : State) : (resetEngine s).cfg = s.cfg := rfl
@[simp] theorem resetEngine_engState (s : State) : (resetEngine s).engState = .disconnected := rfl
@[simp] theorem resetEngine_initState (s : State) : (resetEngine s).initState = .uninitialized := rfl
@[simp] theorem resetEngine_active (s : State) : (resetEngine s).active = .one := rfl
@[simp] theorem resetEngine_rs (s : State) : (resetEngine s).rs = bitRs s.cfg := rfl
@[simp] theorem resetEngine_dw (s : State) : (resetEngine s).dw = false := rfl
@[simp] theorem resetEngine_err (s : State) : (resetEngine s).err = false := rfl
@[simp] theorem resetEngine_cached (s : State) : (resetEngine s).cached = s.cfg.portInit := rfl
@[simp] theorem resetEngine_opened (s : State) : (resetEngine s).opened = false := rfl
@[simp] theorem resetEngine_hostIn (s : State) : (resetEngine s).hostIn = s.hostIn := rfl
@[simp] theorem resetEngine_results (s : State) : (resetEngine s).results = s.results := rfl
@[simp] theorem resetEngine_oracle (s : State) : (resetEngine s).oracle = s.oracle := rfl
@[simp] theorem resetEngine_drawn (s : State) : (resetEngine s).drawn = s.drawn := rfl
@[simp] theorem resetEngine_log (s : State) : (resetEngine s).log = s.log := rfl
@[simp] theorem resetEngine_lcd1 (s : State) : (resetEngine s).lcd1 = s.lcd1 := rfl
@[simp] theorem resetEngine_lcd2 (s : State) : (resetEngine s).lcd2 = s.lcd2 := rfl

end Sys2Proof.Machine
end

