-- ==== Sys2Proof/Laws/Pins.lean ====
section
/-! SUPPORT. Bit facts about masks and pin bits, and what a well-formed parameter set says of the pins. -/
namespace Sys2Proof.Machine

/-- The bit property of a masked merge (spec R52). -/
theorem getLsbD_mergeByte (m o d : Byte) (k : Nat) :
    (mergeByte m o d).getLsbD k = if m.getLsbD k then o.getLsbD k else d.getLsbD k := by
  by_cases hk : k < 8
  · simp only [mergeByte, BitVec.getLsbD_or, BitVec.getLsbD_and, BitVec.getLsbD_not, hk, decide_true, Bool.true_and]
    cases m.getLsbD k <;> simp
  · have h8 : 8 ≤ k := by omega
    simp [BitVec.getLsbD_of_ge _ _ h8]

theorem getLsbD_pinBit (i k : Nat) : (pinBit i).getLsbD k = (decide (k = i) && decide (k < 8)) := by
  simp only [pinBit, BitVec.getLsbD_shiftLeft, BitVec.getLsbD_one]
  by_cases h : k = i
  · subst h; simp
  · by_cases h8 : k < 8
    · by_cases hlt : k < i
      · simp [h8, h, hlt]
      · have : k - i ≠ 0 := by omega
        simp [h8, h, hlt, this]
    · simp [h8]

@[simp] theorem getElem_pinBit (i k : Nat) (hk : k < 8) : (pinBit i)[k] = decide (k = i) := by
  rw [← BitVec.getLsbD_eq_getElem, getLsbD_pinBit]; simp [hk]

/-- A byte meets a pin's bit exactly when that pin's level is high. -/
theorem and_pinBit_eq_zero {i : Nat} (hi : i < 8) (v : Byte) : v &&& pinBit i = 0 ↔ v.getLsbD i = false := by
  constructor
  · intro h
    have hz : (v &&& pinBit i).getLsbD i = (0#8).getLsbD i := by rw [h]; rfl
    simpa only [BitVec.getLsbD_and, getLsbD_pinBit, hi, decide_true, Bool.and_true, BitVec.getLsbD_zero] using hz
  · intro h
    apply BitVec.eq_of_getLsbD_eq
    intro k hk
    simp only [BitVec.getLsbD_and, getLsbD_pinBit]
    by_cases hki : k = i
    · subst hki; simp [h]
    · simp [hki]

/-- The pins of a well-formed parameter set: in range and pairwise distinct (spec R7). -/
structure PinsOk (m : PinMap) : Prop where
  lt : ∀ i ∈ presentPins m, i < 8
  distinct : (presentPins m).Nodup

theorem nodup_of_allDistinct {l : List Nat} (h : allDistinct l = true) : l.Nodup := by
  induction l with
  | nil => exact List.nodup_nil
  | cons a rest ih =>
    simp only [allDistinct, Bool.and_eq_true, Bool.not_eq_true', List.contains_eq_mem, decide_eq_false_iff_not] at h
    exact List.nodup_cons.mpr ⟨h.1, ih h.2⟩

theorem pinsOk_of_wellFormed {p : Params} (h : wellFormedParams p = true) : PinsOk p.pins := by
  simp only [wellFormedParams, Bool.and_eq_true] at h
  refine ⟨?_, nodup_of_allDistinct h.1.1.1.1.1.2⟩
  intro i hi
  have := List.all_eq_true.mp h.1.1.1.1.1.1 i hi
  simpa using this

/-- On dual geometry the second Enable pin is present (spec R7). -/
theorem e2_present_of_dual {p : Params} (h : wellFormedParams p = true) (hd : dual p = true) :
    ∃ i, p.pins.e2 = some i := by
  simp only [wellFormedParams, Bool.and_eq_true] at h
  have := h.1.1.1.1.2
  simp [hd] at this
  exact Option.isSome_iff_exists.mp this

/-- The Enable pin of a controller, where it has one. -/
def enablePin (m : PinMap) (c : Controller) : Option Nat :=
  match c with
  | .one => some m.e1
  | .two => m.e2

theorem bitE_eq (p : Params) (c : Controller) : bitE p c = optionalBit (enablePin p.pins c) := by
  cases c <;> rfl

/-- Everything the proofs use of the pins of a transfer to controller `c`, whose Enable pin is `e`. -/
structure TransferPins (p : Params) (c : Controller) (e : Nat) : Prop where
  bit : bitE p c = pinBit e
  e_lt : e < 8
  rs_lt : p.pins.rs < 8
  rw_lt : p.pins.rw < 8
  d4_lt : p.pins.d4 < 8
  d5_lt : p.pins.d5 < 8
  d6_lt : p.pins.d6 < 8
  d7_lt : p.pins.d7 < 8
  e_rs : e ≠ p.pins.rs
  e_rw : e ≠ p.pins.rw
  e_d4 : e ≠ p.pins.d4
  e_d5 : e ≠ p.pins.d5
  e_d6 : e ≠ p.pins.d6
  e_d7 : e ≠ p.pins.d7
  rs_rw : p.pins.rs ≠ p.pins.rw
  rs_d4 : p.pins.rs ≠ p.pins.d4
  rs_d5 : p.pins.rs ≠ p.pins.d5
  rs_d6 : p.pins.rs ≠ p.pins.d6
  rs_d7 : p.pins.rs ≠ p.pins.d7
  rw_d4 : p.pins.rw ≠ p.pins.d4
  rw_d5 : p.pins.rw ≠ p.pins.d5
  rw_d6 : p.pins.rw ≠ p.pins.d6
  rw_d7 : p.pins.rw ≠ p.pins.d7
  d4_d5 : p.pins.d4 ≠ p.pins.d5
  d4_d6 : p.pins.d4 ≠ p.pins.d6
  d4_d7 : p.pins.d4 ≠ p.pins.d7
  d5_d6 : p.pins.d5 ≠ p.pins.d6
  d5_d7 : p.pins.d5 ≠ p.pins.d7
  d6_d7 : p.pins.d6 ≠ p.pins.d7

theorem transferPins_of_wellFormed {p : Params} (h : wellFormedParams p = true) {c : Controller} {e : Nat}
    (he : enablePin p.pins c = some e) : TransferPins p c e := by
  obtain ⟨hlt, hnd⟩ := pinsOk_of_wellFormed h
  have hbit : bitE p c = pinBit e := by rw [bitE_eq, he]; rfl
  have hsub : [p.pins.rs, p.pins.rw, p.pins.d4, p.pins.d5, p.pins.d6, p.pins.d7, e] ⊆ presentPins p.pins ∧
      [p.pins.rs, p.pins.rw, p.pins.d4, p.pins.d5, p.pins.d6, p.pins.d7, e].Nodup := by
    cases c with
    | one =>
      simp only [enablePin, Option.some.injEq] at he
      subst he
      have h7 : [p.pins.e1, p.pins.rs, p.pins.rw, p.pins.d4, p.pins.d5, p.pins.d6, p.pins.d7].Nodup :=
        hnd.of_append_left.of_append_left
      refine ⟨by intro a ha; simp [presentPins] at ha ⊢; omega, ?_⟩
      exact (List.perm_append_comm (l₁ := [p.pins.e1])
        (l₂ := [p.pins.rs, p.pins.rw, p.pins.d4, p.pins.d5, p.pins.d6, p.pins.d7])).nodup_iff.mp h7
    | two =>
      simp only [enablePin] at he
      have h8 := hnd.of_append_left
      simp only [he, Option.toList_some] at h8
      refine ⟨by intro a ha; simp [presentPins, he] at ha ⊢; omega, ?_⟩
      exact (List.nodup_cons.mp h8).2
  have hm := fun a ha => hlt a (hsub.1 ha)
  have hn := hsub.2
  simp only [List.nodup_cons, List.mem_cons, List.not_mem_nil, or_false, not_or] at hn
  obtain ⟨⟨h1, h2, h3, h4, h5, h6⟩, ⟨h7, h8, h9, h10, h11⟩, ⟨h12, h13, h14, h15⟩, ⟨h16, h17, h18⟩, ⟨h19, h20⟩, h21, -⟩ := hn
  exact {
    bit := hbit
    e_lt := hm _ (by simp), rs_lt := hm _ (by simp), rw_lt := hm _ (by simp), d4_lt := hm _ (by simp)
    d5_lt := hm _ (by simp), d6_lt := hm _ (by simp), d7_lt := hm _ (by simp)
    e_rs := Ne.symm h6, e_rw := Ne.symm h11, e_d4 := Ne.symm h15, e_d5 := Ne.symm h18, e_d6 := Ne.symm h20
    e_d7 := Ne.symm h21, rs_rw := h1, rs_d4 := h2, rs_d5 := h3, rs_d6 := h4, rs_d7 := h5
    rw_d4 := h7, rw_d5 := h8, rw_d6 := h9, rw_d7 := h10, d4_d5 := h12, d4_d6 := h13, d4_d7 := h14
    d5_d6 := h16, d5_d7 := h17, d6_d7 := h19 }

/-- The two Enable pins differ. -/
theorem enablePins_differ {p : Params} (h : wellFormedParams p = true) {e : Nat} (he : p.pins.e2 = some e) :
    p.pins.e1 ≠ e := by
  have hnd := (pinsOk_of_wellFormed h).distinct
  simp only [presentPins, he, Option.toList_some, List.nodup_append, List.mem_append, List.mem_cons] at hnd
  exact hnd.1.2.2 _ (Or.inl rfl) _ (Or.inl rfl)

end Sys2Proof.Machine
end

