-- ==== Sys2Proof/Laws/Port.lean ====
section
/-! SUPPORT. Everything one Port write can do, once: `pw_cases`, and the frame, the log, `ERR` and the pins of it. -/
namespace Sys2Proof.Machine

/-- A run of `n` Port writes: the engine's own registers kept, `n` attempts added to the log and nothing else,
`ERR` set exactly when one of them failed. -/
structure PortRun (n : Nat) (s t : State) : Prop where
  kept : EngineKept s t
  log : ∃ evs, t.log = s.log ++ evs ∧ attempts evs = n ∧ evs.all isWrite = true ∧ t.err = (s.err || anyFailed evs)

theorem PortRun.refl (s : State) : PortRun 0 s s :=
  ⟨⟨rfl, rfl, rfl, rfl, rfl, rfl, rfl⟩, [], by simp, rfl, rfl, by simp [anyFailed]⟩

theorem PortRun.trans {n m : Nat} {s t u : State} (h : PortRun n s t) (k : PortRun m t u) : PortRun (n + m) s u := by
  obtain ⟨⟨a1, a2, a3, a4, a5, a6, a7⟩, e, he, hn, hw, hr⟩ := h
  obtain ⟨⟨b1, b2, b3, b4, b5, b6, b7⟩, f, hf, hm, hv, hq⟩ := k
  refine ⟨⟨b1.trans a1, b2.trans a2, b3.trans a3, b4.trans a4, b5.trans a5, b6.trans a6, b7.trans a7⟩, e ++ f, ?_, ?_, ?_, ?_⟩
  · rw [hf, he, List.append_assoc]
  · simp [attempts, ← hn, ← hm]
  · rw [List.all_append, hw, hv]; rfl
  · simp [anyFailed, hq, hr, Bool.or_assoc]

theorem PortRun.cast {n m : Nat} {s t : State} (h : PortRun n s t) (e : n = m) : PortRun m s t := e ▸ h

/-- Everything a Port write can do: nothing but `ERR` on a closed Port, else one attempt that the oracle answers. -/
theorem pw_cases (m d : Byte) (s : State) :
    (s.opened = false ∧ pw m d s = noteResult false s) ∨
    (s.opened = true ∧ nextAnswer s = true ∧ pw m d s = noteResult true
      (commit (mergeByte m s.cached d) (record (.write (mergeByte m s.cached d) true) (takeAnswer s)))) ∨
    (s.opened = true ∧ nextAnswer s = false ∧ pw m d s = noteResult false
      (record (.write (mergeByte m s.cached d) false) (takeAnswer s))) := by
  unfold pw maskedWrite
  by_cases ho : s.opened = true
  · by_cases ha : nextAnswer s = true
    · simp [ho, ha]
    · simp only [Bool.not_eq_true] at ha; simp [ho, ha]
  · simp only [Bool.not_eq_true] at ho; simp [ho]

@[simp] theorem pw_cfg (m d : Byte) (s : State) : (pw m d s).cfg = s.cfg := by
  obtain ⟨-, h⟩ | ⟨-, -, h⟩ | ⟨-, -, h⟩ := pw_cases m d s <;> simp [h]

@[simp] theorem pw_active (m d : Byte) (s : State) : (pw m d s).active = s.active := by
  obtain ⟨-, h⟩ | ⟨-, -, h⟩ | ⟨-, -, h⟩ := pw_cases m d s <;> simp [h]

@[simp] theorem pw_rs (m d : Byte) (s : State) : (pw m d s).rs = s.rs := by
  obtain ⟨-, h⟩ | ⟨-, -, h⟩ | ⟨-, -, h⟩ := pw_cases m d s <;> simp [h]

@[simp] theorem pw_dw (m d : Byte) (s : State) : (pw m d s).dw = s.dw := by
  obtain ⟨-, h⟩ | ⟨-, -, h⟩ | ⟨-, -, h⟩ := pw_cases m d s <;> simp [h]

@[simp] theorem pw_opened (m d : Byte) (s : State) : (pw m d s).opened = s.opened := by
  obtain ⟨-, h⟩ | ⟨-, -, h⟩ | ⟨-, -, h⟩ := pw_cases m d s <;> simp [h]

theorem pw_kept (m d : Byte) (s : State) : EngineKept s (pw m d s) := by
  obtain ⟨-, h⟩ | ⟨-, -, h⟩ | ⟨-, -, h⟩ := pw_cases m d s <;> simp [h, EngineKept]

/-- One Port write on an open Port is one attempt. -/
theorem pw_run {s : State} (ho : s.opened = true) (m d : Byte) : PortRun 1 s (pw m d s) := by
  refine ⟨pw_kept m d s, ?_⟩
  obtain ⟨h, -⟩ | ⟨-, -, h⟩ | ⟨-, -, h⟩ := pw_cases m d s
  · rw [ho] at h; exact absurd h (by decide)
  · exact ⟨[.write (mergeByte m s.cached d) true], by simp [h], rfl, rfl, by simp [h, anyFailed, isFailedWrite]⟩
  · exact ⟨[.write (mergeByte m s.cached d) false], by simp [h], rfl, rfl, by simp [h, anyFailed, isFailedWrite]⟩

/-- A Port write keeps every pin its mask keeps, whether it succeeds or fails. -/
theorem pw_pins {m keep : Byte} (hk : m &&& keep = keep) (d : Byte) (s : State) :
    (pw m d s).cached &&& keep = s.cached &&& keep := by
  obtain ⟨-, h⟩ | ⟨-, -, h⟩ | ⟨-, -, h⟩ := pw_cases m d s
  · simp [h]
  · simp only [h, noteResult_cached, commit_cached]
    rw [← hk]
    apply BitVec.eq_of_getLsbD_eq
    intro k hlt
    simp only [BitVec.getLsbD_and, getLsbD_mergeByte]
    cases m.getLsbD k <;> simp
  · simp [h]

/-- If `ERR` is false after a Port write, it was false before, the Port was open and the write succeeded. -/
theorem pw_clean {m d : Byte} {s : State} (h : (pw m d s).err = false) :
    s.err = false ∧ s.opened = true ∧ nextAnswer s = true ∧ pw m d s = noteResult true
      (commit (mergeByte m s.cached d) (record (.write (mergeByte m s.cached d) true) (takeAnswer s))) := by
  obtain ⟨-, e⟩ | ⟨ho, ha, e⟩ | ⟨-, -, e⟩ := pw_cases m d s
  · simp [e] at h
  · exact ⟨by simpa [e] using h, ho, ha, e⟩
  · simp [e] at h

/-- The sink of a controller whose Enable the mask keeps sees nothing of a Port write. -/
theorem pw_lcdOf {m : Byte} {c : Controller} {s : State} (hk : m &&& bitE s.cfg c = bitE s.cfg c) (d : Byte) :
    lcdOf c (pw m d s) = lcdOf c s := by
  obtain ⟨-, h⟩ | ⟨-, -, h⟩ | ⟨-, -, h⟩ := pw_cases m d s
  · cases c <;> simp [h, lcdOf]
  · have hfall : enableFalls s.cfg c s.cached (mergeByte m s.cached d) = false := by
      have : mergeByte m s.cached d &&& bitE s.cfg c = s.cached &&& bitE s.cfg c := by
        have hp := pw_pins hk d s
        simpa [h] using hp
      simp [enableFalls, this]
    cases c <;> simp [h, lcdOf, lcdSee, hfall]
  · cases c <;> simp [h, lcdOf]

/-- The sink of every controller after a clean Port write: what it sees of the change. -/
theorem pw_clean_lcdOf {m d : Byte} {s : State} (h : (pw m d s).err = false) (c : Controller) :
    lcdOf c (pw m d s) = lcdSee s.cfg c (s.drawn + 1) s.cached (mergeByte m s.cached d) (lcdOf c s) := by
  obtain ⟨-, -, -, e⟩ := pw_clean h
  cases c <;> simp [e, lcdOf]

theorem pw_clean_cached {m d : Byte} {s : State} (h : (pw m d s).err = false) :
    (pw m d s).cached = mergeByte m s.cached d := by
  obtain ⟨-, -, -, e⟩ := pw_clean h
  simp [e]

end Sys2Proof.Machine
end

