-- ==== Sys2Proof/Laws/Transfer.lean ====
section
/-! SUPPORT. Everything a transfer can do, once: the frame, the attempts, the pins it keeps, the sink it does not reach
(all for every answer of the oracle), and what the active sink gets when no write fails. -/
namespace Sys2Proof.Machine

/-! ## Frames and counts, for every oracle -/

section Frames
variable (s : State)

@[simp] theorem pwControl_cfg (d : Byte) : (pwControl d s).cfg = s.cfg := pw_cfg _ _ _
@[simp] theorem pwControl_active (d : Byte) : (pwControl d s).active = s.active := pw_active _ _ _
@[simp] theorem pwControl_rs (d : Byte) : (pwControl d s).rs = s.rs := pw_rs _ _ _
@[simp] theorem pwControl_dw (d : Byte) : (pwControl d s).dw = s.dw := pw_dw _ _ _
@[simp] theorem pwControl_opened (d : Byte) : (pwControl d s).opened = s.opened := pw_opened _ _ _

@[simp] theorem strobe_cfg (n : Nibble) : (strobe n s).cfg = s.cfg := by simp [strobe]
@[simp] theorem strobe_active (n : Nibble) : (strobe n s).active = s.active := by simp [strobe]
@[simp] theorem strobe_rs (n : Nibble) : (strobe n s).rs = s.rs := by simp [strobe]
@[simp] theorem strobe_dw (n : Nibble) : (strobe n s).dw = s.dw := by simp [strobe]
@[simp] theorem strobe_opened (n : Nibble) : (strobe n s).opened = s.opened := by simp [strobe]

@[simp] theorem sendByte_cfg (v : Byte) : (sendByte v s).cfg = s.cfg := by unfold sendByte; split <;> simp
@[simp] theorem sendByte_active (v : Byte) : (sendByte v s).active = s.active := by unfold sendByte; split <;> simp
@[simp] theorem sendByte_rs (v : Byte) : (sendByte v s).rs = s.rs := by unfold sendByte; split <;> simp
@[simp] theorem sendByte_dw (v : Byte) : (sendByte v s).dw = s.dw := by unfold sendByte; split <;> simp
@[simp] theorem sendByte_opened (v : Byte) : (sendByte v s).opened = s.opened := by unfold sendByte; split <;> simp

@[simp] theorem writeCommand_cfg (c : Byte) : (writeCommand c s).cfg = s.cfg := by simp [writeCommand]
@[simp] theorem writeCommand_active (c : Byte) : (writeCommand c s).active = s.active := by simp [writeCommand]
/-- The RS restore (spec R113, R225). -/
@[simp] theorem writeCommand_rs (c : Byte) : (writeCommand c s).rs = bitRs s.cfg := by simp [writeCommand]
@[simp] theorem writeCommand_dw (c : Byte) : (writeCommand c s).dw = s.dw := by simp [writeCommand]
@[simp] theorem writeCommand_opened (c : Byte) : (writeCommand c s).opened = s.opened := by simp [writeCommand]

@[simp] theorem writeData_cfg (d : Byte) : (writeData d s).cfg = s.cfg := sendByte_cfg s d
@[simp] theorem writeData_active (d : Byte) : (writeData d s).active = s.active := sendByte_active s d
@[simp] theorem writeData_rs (d : Byte) : (writeData d s).rs = s.rs := sendByte_rs s d
@[simp] theorem writeData_dw (d : Byte) : (writeData d s).dw = s.dw := sendByte_dw s d
@[simp] theorem writeData_opened (d : Byte) : (writeData d s).opened = s.opened := sendByte_opened s d

end Frames

theorem writeAllData_frame (ds : List Byte) (s : State) :
    (writeAllData ds s).cfg = s.cfg ∧ (writeAllData ds s).active = s.active ∧ (writeAllData ds s).rs = s.rs ∧
    (writeAllData ds s).dw = s.dw ∧ (writeAllData ds s).opened = s.opened := by
  induction ds generalizing s with
  | nil => exact ⟨rfl, rfl, rfl, rfl, rfl⟩
  | cons d rest ih =>
    obtain ⟨a, b, c, e, f⟩ := ih (writeData d s)
    simp only [writeData_cfg, writeData_active, writeData_rs, writeData_dw, writeData_opened] at a b c e f
    exact ⟨a, b, c, e, f⟩

@[simp] theorem writeAllData_cfg (ds : List Byte) (s : State) : (writeAllData ds s).cfg = s.cfg :=
  (writeAllData_frame ds s).1
@[simp] theorem writeAllData_active (ds : List Byte) (s : State) : (writeAllData ds s).active = s.active :=
  (writeAllData_frame ds s).2.1
@[simp] theorem writeAllData_rs (ds : List Byte) (s : State) : (writeAllData ds s).rs = s.rs :=
  (writeAllData_frame ds s).2.2.1
@[simp] theorem writeAllData_dw (ds : List Byte) (s : State) : (writeAllData ds s).dw = s.dw :=
  (writeAllData_frame ds s).2.2.2.1
@[simp] theorem writeAllData_opened (ds : List Byte) (s : State) : (writeAllData ds s).opened = s.opened :=
  (writeAllData_frame ds s).2.2.2.2

theorem setRs_run (v : Byte) (s : State) : PortRun 0 s (setRs v s) :=
  ⟨⟨rfl, rfl, rfl, rfl, rfl, rfl, rfl⟩, [], by simp, rfl, rfl, by simp [anyFailed]⟩

theorem select_run (c : Controller) (s : State) : PortRun 0 s (select c s) :=
  ⟨⟨rfl, rfl, rfl, rfl, rfl, rfl, rfl⟩, [], by simp, rfl, rfl, by simp [anyFailed]⟩

/-- A strobe is 3 writes (spec R116). -/
theorem strobe_run {s : State} (ho : s.opened = true) (n : Nibble) : PortRun 3 s (strobe n s) := by
  have h1 := pw_run ho (controlMask s.cfg s.active) (s.rs ||| bitE s.cfg s.active)
  have h2 := pw_run (s := pwControl (s.rs ||| bitE s.cfg s.active) s) (by simpa using ho) (dataMask s.cfg) (dbus s.cfg n)
  exact (h1.trans h2).trans (pw_run (by simpa using ho) _ _)

/-- A byte is 7 writes with `DW`, 4 without (spec R112, R116). -/
theorem sendByte_run {s : State} (ho : s.opened = true) (v : Byte) :
    PortRun (if s.dw then 7 else 4) s (sendByte v s) := by
  have h1 : PortRun 1 s (pwControl s.rs s) := pw_run ho _ _
  have h2 := strobe_run (s := pwControl s.rs s) (by simpa using ho) (highNibble v)
  unfold sendByte
  by_cases hd : s.dw = true
  · simp only [hd, if_true]
    exact (h1.trans h2).trans (strobe_run (by simpa using ho) (lowNibble v))
  · simp only [hd]
    exact h1.trans h2

theorem writeCommand_run {s : State} (ho : s.opened = true) (c : Byte) :
    PortRun (if s.dw then 7 else 4) s (writeCommand c s) := by
  have h := sendByte_run (s := setRs 0#8 s) (by simpa using ho) c
  have := ((setRs_run 0#8 s).trans h).trans (setRs_run (bitRs s.cfg) _)
  exact this.cast (show 0 + (if s.dw = true then 7 else 4) + 0 = _ by rw [Nat.add_zero, Nat.zero_add])

theorem writeData_run {s : State} (ho : s.opened = true) (d : Byte) :
    PortRun (if s.dw then 7 else 4) s (writeData d s) := sendByte_run ho d

theorem writeAllData_run {s : State} (ho : s.opened = true) (ds : List Byte) :
    PortRun ((if s.dw then 7 else 4) * ds.length) s (writeAllData ds s) := by
  induction ds generalizing s with
  | nil => exact PortRun.refl s
  | cons d rest ih =>
    have h2 := ih (s := writeData d s) (by simpa using ho)
    exact ((writeData_run ho d).trans h2).cast (by
      simp only [writeData_dw, List.length_cons, Nat.mul_add, Nat.mul_one]; omega)

/-! ## `ERR` is sticky through a transfer (spec R30) -/

section Sticky
variable {s : State} (h : s.err = true)
include h

theorem pw_err_sticky (m d : Byte) : (pw m d s).err = true := by
  obtain ⟨-, q⟩ | ⟨-, -, q⟩ | ⟨-, -, q⟩ := pw_cases m d s <;> simp [q, h]

theorem strobe_err_sticky (n : Nibble) : (strobe n s).err = true :=
  pw_err_sticky (pw_err_sticky (pw_err_sticky h _ _) _ _) _ _

theorem sendByte_err_sticky (v : Byte) : (sendByte v s).err = true := by
  unfold sendByte
  split
  · exact strobe_err_sticky (strobe_err_sticky (pw_err_sticky h _ _) _) _
  · exact strobe_err_sticky (pw_err_sticky h _ _) _

theorem writeCommand_err_sticky (c : Byte) : (writeCommand c s).err = true :=
  sendByte_err_sticky (s := setRs 0#8 s) h c

theorem writeAllData_err_sticky (ds : List Byte) : (writeAllData ds s).err = true := by
  induction ds generalizing s with
  | nil => exact h
  | cons d rest ih => exact ih (sendByte_err_sticky h d)

end Sticky

/-! ## Pins kept, for every oracle -/

theorem controlMask_keeps (p : Params) (c : Controller) : controlMask p c &&& keptPins p c = keptPins p c := by
  rw [keptPins, ← BitVec.and_assoc, BitVec.and_self]

theorem dataMask_keeps (p : Params) (c : Controller) : dataMask p &&& keptPins p c = keptPins p c := by
  rw [keptPins, BitVec.and_comm (controlMask p c), ← BitVec.and_assoc, BitVec.and_self]

theorem pwControl_pins (d : Byte) (s : State) :
    (pwControl d s).cached &&& keptPins s.cfg s.active = s.cached &&& keptPins s.cfg s.active :=
  pw_pins (controlMask_keeps s.cfg s.active) d s

theorem strobe_pins (n : Nibble) (s : State) :
    (strobe n s).cached &&& keptPins s.cfg s.active = s.cached &&& keptPins s.cfg s.active := by
  have h1 := pwControl_pins (s.rs ||| bitE s.cfg s.active) s
  have h2 := pw_pins (dataMask_keeps s.cfg s.active) (dbus s.cfg n) (pwControl (s.rs ||| bitE s.cfg s.active) s)
  have h3 := pwControl_pins s.rs (pw (dataMask s.cfg) (dbus s.cfg n) (pwControl (s.rs ||| bitE s.cfg s.active) s))
  simp only [pw_cfg, pw_active, pwControl_cfg, pwControl_active] at h3
  exact h3.trans (h2.trans h1)

theorem sendByte_pins (v : Byte) (s : State) :
    (sendByte v s).cached &&& keptPins s.cfg s.active = s.cached &&& keptPins s.cfg s.active := by
  have h1 := pwControl_pins s.rs s
  have h2 := strobe_pins (highNibble v) (pwControl s.rs s)
  have h3 := strobe_pins (lowNibble v) (strobe (highNibble v) (pwControl s.rs s))
  simp only [strobe_cfg, strobe_active, pwControl_cfg, pwControl_active] at h2 h3
  unfold sendByte
  split
  · exact h3.trans (h2.trans h1)
  · exact h2.trans h1

theorem writeCommand_pins (c : Byte) (s : State) :
    (writeCommand c s).cached &&& keptPins s.cfg s.active = s.cached &&& keptPins s.cfg s.active := by
  simpa [writeCommand] using sendByte_pins c (setRs 0#8 s)

theorem writeAllData_pins (ds : List Byte) (s : State) :
    (writeAllData ds s).cached &&& keptPins s.cfg s.active = s.cached &&& keptPins s.cfg s.active := by
  induction ds generalizing s with
  | nil => rfl
  | cons d rest ih =>
    have h := ih (writeData d s)
    simp only [writeData_cfg, writeData_active] at h
    exact h.trans (sendByte_pins d s)

/-! ## The sink a transfer does not reach, for every oracle -/

theorem getLsbD_controlMask {p : Params} {c : Controller} {e : Nat} (h : TransferPins p c e) {k : Nat} (hk : k < 8) :
    (controlMask p c).getLsbD k = !(decide (k = e) || decide (k = p.pins.rs) || decide (k = p.pins.rw)) := by
  simp only [controlMask, h.bit, bitRs, bitRw, BitVec.getLsbD_not, BitVec.getLsbD_or, getLsbD_pinBit, hk, decide_true,
    Bool.true_and, Bool.and_true]

theorem getLsbD_dataMask (p : Params) {k : Nat} (hk : k < 8) :
    (dataMask p).getLsbD k =
      !(decide (k = p.pins.d4) || decide (k = p.pins.d5) || decide (k = p.pins.d6) || decide (k = p.pins.d7)) := by
  simp only [dataMask, BitVec.getLsbD_not, BitVec.getLsbD_or, getLsbD_pinBit, hk, decide_true, Bool.true_and,
    Bool.and_true]

theorem and_pinBit_eq {m : Byte} {i : Nat} (h : m.getLsbD i = true) : m &&& pinBit i = pinBit i := by
  apply BitVec.eq_of_getLsbD_eq
  intro k hk
  simp only [BitVec.getLsbD_and, getLsbD_pinBit]
  by_cases hki : k = i
  · subst hki; simp [h]
  · simp [hki]

/-- `controlMask` of one controller keeps the Enable pin of the other (spec R26, R118). -/
theorem controlMask_keeps_other {p : Params} (h : wellFormedParams p = true) (c : Controller) :
    controlMask p c &&& bitE p (otherController c) = bitE p (otherController c) := by
  rw [bitE_eq p (otherController c)]
  cases ho : enablePin p.pins (otherController c) with
  | none => simp [optionalBit]
  | some o =>
    have ho2 := transferPins_of_wellFormed h ho
    apply and_pinBit_eq
    cases hc : enablePin p.pins c with
    | none =>
      have hb : bitE p c = 0 := by rw [bitE_eq, hc]; rfl
      simp [controlMask, hb, bitRs, bitRw, ho2.e_lt, ho2.e_rs, ho2.e_rw]
    | some e =>
      have hne : o ≠ e := by
        cases c with
        | one =>
          simp only [enablePin, otherController, Option.some.injEq] at hc ho
          exact hc ▸ (enablePins_differ h ho).symm
        | two =>
          simp only [enablePin, otherController, Option.some.injEq] at hc ho
          exact ho ▸ enablePins_differ h hc
      rw [getLsbD_controlMask (transferPins_of_wellFormed h hc) ho2.e_lt]
      simp [hne, ho2.e_rs, ho2.e_rw]

/-- `dataMask` keeps both Enable pins (spec R27). -/
theorem dataMask_keeps_enable {p : Params} (h : wellFormedParams p = true) (c : Controller) :
    dataMask p &&& bitE p c = bitE p c := by
  rw [bitE_eq]
  cases hc : enablePin p.pins c with
  | none => simp [optionalBit]
  | some e =>
    have te := transferPins_of_wellFormed h hc
    apply and_pinBit_eq
    rw [getLsbD_dataMask p te.e_lt]
    simp [te.e_d4, te.e_d5, te.e_d6, te.e_d7]

section Other
variable {s : State} (h : wellFormedParams s.cfg = true)
include h

theorem pwControl_other (d : Byte) :
    lcdOf (otherController s.active) (pwControl d s) = lcdOf (otherController s.active) s :=
  pw_lcdOf (controlMask_keeps_other h s.active) d

theorem strobe_other (n : Nibble) :
    lcdOf (otherController s.active) (strobe n s) = lcdOf (otherController s.active) s := by
  have h1 := pwControl_other h (s.rs ||| bitE s.cfg s.active)
  have h2 := pw_lcdOf (m := dataMask s.cfg) (c := otherController s.active)
    (s := pwControl (s.rs ||| bitE s.cfg s.active) s) (by simpa using dataMask_keeps_enable h _) (dbus s.cfg n)
  have h3 := pwControl_other (s := pw (dataMask s.cfg) (dbus s.cfg n) (pwControl (s.rs ||| bitE s.cfg s.active) s))
    (by simpa using h) s.rs
  simp only [pw_active, pwControl_active] at h3
  exact h3.trans (h2.trans h1)

/-- A transfer reaches no sink but the active one's (spec R111, R118). -/
theorem sendByte_other (v : Byte) :
    lcdOf (otherController s.active) (sendByte v s) = lcdOf (otherController s.active) s := by
  have h1 := pwControl_other h s.rs
  have h2 := strobe_other (s := pwControl s.rs s) (by simpa using h) (highNibble v)
  have h3 := strobe_other (s := strobe (highNibble v) (pwControl s.rs s)) (by simpa using h) (lowNibble v)
  simp only [strobe_active, pwControl_active] at h2 h3
  unfold sendByte
  split
  · exact h3.trans (h2.trans h1)
  · exact h2.trans h1

theorem writeCommand_other (c : Byte) :
    lcdOf (otherController s.active) (writeCommand c s) = lcdOf (otherController s.active) s := by
  have := sendByte_other (s := setRs 0#8 s) h c
  cases ha : s.active <;> simpa [writeCommand, ha, otherController, lcdOf] using this

theorem writeAllData_other (ds : List Byte) :
    lcdOf (otherController s.active) (writeAllData ds s) = lcdOf (otherController s.active) s := by
  induction ds generalizing s with
  | nil => rfl
  | cons d rest ih =>
    have h1 := ih (s := writeData d s) (by simpa using h)
    simp only [writeData_active] at h1
    exact h1.trans (sendByte_other h d)

end Other

/-! ## Levels on the port -/

/-- The levels of a port byte that a transfer to a controller with Enable pin `e` sets: E, RS, RW, and the nibble. -/
structure Levels (p : Params) (e : Nat) (v : Byte) (en rs : Bool) : Prop where
  enable : v.getLsbD e = en
  select : v.getLsbD p.pins.rs = rs
  readWrite : v.getLsbD p.pins.rw = false

theorem dataNibble_eq {p : Params} {v : Byte} {n : Nibble} (h4 : v.getLsbD p.pins.d4 = n.getLsbD 0)
    (h5 : v.getLsbD p.pins.d5 = n.getLsbD 1) (h6 : v.getLsbD p.pins.d6 = n.getLsbD 2)
    (h7 : v.getLsbD p.pins.d7 = n.getLsbD 3) : dataNibble p v = n := by
  rw [dataNibble, h4, h5, h6, h7]
  exact (by decide : ∀ n : Nibble, BitVec.ofBool (n.getLsbD 3) ++ BitVec.ofBool (n.getLsbD 2) ++
    BitVec.ofBool (n.getLsbD 1) ++ BitVec.ofBool (n.getLsbD 0) = n) n

section Levels
variable {p : Params} {c : Controller} {e : Nat} (h : TransferPins p c e)
include h

theorem rsLevel_eq (v : Byte) : rsLevel p v = v.getLsbD p.pins.rs := by
  have hz := and_pinBit_eq_zero h.rs_lt v
  cases hb : v.getLsbD p.pins.rs with
  | true =>
    have : v &&& pinBit p.pins.rs ≠ 0 := fun hh => by rw [hz.mp hh] at hb; exact absurd hb (by decide)
    simpa [rsLevel, bitRs] using this
  | false => simpa [rsLevel, bitRs] using hz.mpr hb

theorem enable_low_iff (v : Byte) : v &&& bitE p c = 0 ↔ v.getLsbD e = false := by
  rw [h.bit]; exact and_pinBit_eq_zero h.e_lt v

theorem enableFalls_eq (v w : Byte) : enableFalls p c v w = (v.getLsbD e && !w.getLsbD e) := by
  have hv := enable_low_iff h v
  have hw := enable_low_iff h w
  unfold enableFalls
  cases hb : v.getLsbD e <;> cases hc : w.getLsbD e <;> simp [hb, hc] at hv hw <;> simp [hv, hw]

/-- A control write sets E, RS and RW and keeps every other pin (spec R26, R89). -/
theorem control_levels (en r : Bool) (v : Byte) :
    Levels p e (mergeByte (controlMask p c) v ((if r then bitRs p else 0) ||| (if en then bitE p c else 0))) en r ∧
    ∀ k, k < 8 → k ≠ e → k ≠ p.pins.rs → k ≠ p.pins.rw →
      (mergeByte (controlMask p c) v ((if r then bitRs p else 0) ||| (if en then bitE p c else 0))).getLsbD k
        = v.getLsbD k := by
  refine ⟨⟨?_, ?_, ?_⟩, ?_⟩
  · rw [getLsbD_mergeByte, getLsbD_controlMask h h.e_lt]
    cases en <;> cases r <;> simp [h.bit, bitRs, h.e_lt, h.e_rs]
  · rw [getLsbD_mergeByte, getLsbD_controlMask h h.rs_lt]
    cases en <;> cases r <;> simp [h.bit, bitRs, h.rs_lt, h.e_rs.symm]
  · rw [getLsbD_mergeByte, getLsbD_controlMask h h.rw_lt]
    cases en <;> cases r <;> simp [h.bit, bitRs, h.rw_lt, h.e_rw.symm, h.rs_rw.symm]
  · intro k hk h1 h2 h3
    rw [getLsbD_mergeByte, getLsbD_controlMask h hk]
    simp [h1, h2, h3]

/-- A data write puts the nibble on D4..D7 and keeps every other pin (spec R27, R64, R89). -/
theorem data_levels (n : Nibble) (v : Byte) :
    dataNibble p (mergeByte (dataMask p) v (dbus p n)) = n ∧
    ∀ k, k < 8 → k ≠ p.pins.d4 → k ≠ p.pins.d5 → k ≠ p.pins.d6 → k ≠ p.pins.d7 →
      (mergeByte (dataMask p) v (dbus p n)).getLsbD k = v.getLsbD k := by
  have hd : ∀ k, k < 8 → (dbus p n).getLsbD k = ((n.getLsbD 0 && decide (k = p.pins.d4)) ||
      (n.getLsbD 1 && decide (k = p.pins.d5)) || (n.getLsbD 2 && decide (k = p.pins.d6)) ||
      (n.getLsbD 3 && decide (k = p.pins.d7))) := by
    intro k hk
    simp only [dbus, BitVec.getLsbD_or]
    cases n.getLsbD 0 <;> cases n.getLsbD 1 <;> cases n.getLsbD 2 <;> cases n.getLsbD 3 <;>
      simp [hk]
  refine ⟨dataNibble_eq ?_ ?_ ?_ ?_, ?_⟩
  · rw [getLsbD_mergeByte, getLsbD_dataMask p h.d4_lt, hd _ h.d4_lt]
    simp [h.d4_d5, h.d4_d6, h.d4_d7]
  · rw [getLsbD_mergeByte, getLsbD_dataMask p h.d5_lt, hd _ h.d5_lt]
    simp [h.d4_d5.symm, h.d5_d6, h.d5_d7]
  · rw [getLsbD_mergeByte, getLsbD_dataMask p h.d6_lt, hd _ h.d6_lt]
    simp [h.d4_d6.symm, h.d5_d6.symm, h.d6_d7]
  · rw [getLsbD_mergeByte, getLsbD_dataMask p h.d7_lt, hd _ h.d7_lt]
    simp [h.d4_d7.symm, h.d5_d7.symm, h.d6_d7.symm]
  · intro k hk h1 h2 h3 h4
    rw [getLsbD_mergeByte, getLsbD_dataMask p hk]
    simp [h1, h2, h3, h4]

/-- The nibble on the data lines depends on the data pins alone. -/
theorem dataNibble_congr {v w : Byte} (hd : ∀ k, k < 8 → k ≠ e → k ≠ p.pins.rs → k ≠ p.pins.rw →
    v.getLsbD k = w.getLsbD k) : dataNibble p v = dataNibble p w := by
  simp only [dataNibble]
  rw [hd _ h.d4_lt h.e_d4.symm h.rs_d4.symm h.rw_d4.symm, hd _ h.d5_lt h.e_d5.symm h.rs_d5.symm h.rw_d5.symm,
    hd _ h.d6_lt h.e_d6.symm h.rs_d6.symm h.rw_d6.symm, hd _ h.d7_lt h.e_d7.symm h.rs_d7.symm h.rw_d7.symm]

end Levels

/-! ## The active sink when no write fails -/

section Clean
variable {s : State} {e : Nat} (h : TransferPins s.cfg s.active e) {r : Bool}
  (hr : s.rs = if r then bitRs s.cfg else 0)
include h hr

/-- A strobe gives the active controller exactly one latch, its nibble at the RS level (spec R111), and leaves Enable
low. -/
theorem strobe_clean {n : Nibble} (hc : (strobe n s).err = false) :
    s.err = false ∧ s.opened = true ∧ Levels s.cfg e (strobe n s).cached false r ∧
    dataNibble s.cfg (strobe n s).cached = n ∧
    ∃ u f, lcdOf s.active (strobe n s) = lcdLatch u f r n (lcdOf s.active s) := by
  obtain ⟨hl1, -⟩ := control_levels h true r s.cached
  have ev1 : s.rs ||| bitE s.cfg s.active = (if r then bitRs s.cfg else 0) ||| (if true then bitE s.cfg s.active else 0) := by
    rw [hr]; rfl
  unfold strobe at hc ⊢
  generalize ha : pwControl (s.rs ||| bitE s.cfg s.active) s = a at hc ⊢
  have a_cfg : a.cfg = s.cfg := by rw [← ha]; simp
  have a_act : a.active = s.active := by rw [← ha]; simp
  generalize hb : pw (dataMask s.cfg) (dbus s.cfg n) a = b at hc ⊢
  have b_cfg : b.cfg = s.cfg := by rw [← hb]; simpa using a_cfg
  have b_act : b.active = s.active := by rw [← hb]; simpa using a_act
  have hc3 : (pw (controlMask b.cfg b.active) s.rs b).err = false := hc
  obtain ⟨be, -, -, -⟩ := pw_clean hc3
  have hc2 : (pw (dataMask s.cfg) (dbus s.cfg n) a).err = false := by rw [hb]; exact be
  obtain ⟨ae, -, -, -⟩ := pw_clean hc2
  have hc1 : (pw (controlMask s.cfg s.active) (s.rs ||| bitE s.cfg s.active) s).err = false := by
    rw [show pw (controlMask s.cfg s.active) (s.rs ||| bitE s.cfg s.active) s = a from ha]; exact ae
  obtain ⟨se, so, -, -⟩ := pw_clean hc1
  have ca : a.cached = mergeByte (controlMask s.cfg s.active) s.cached (s.rs ||| bitE s.cfg s.active) := by
    rw [← ha]; exact pw_clean_cached hc1
  have cb : b.cached = mergeByte (dataMask s.cfg) a.cached (dbus s.cfg n) := by rw [← hb]; exact pw_clean_cached hc2
  have cc := pw_clean_cached hc3
  rw [b_cfg, b_act] at cc
  rw [ev1] at ca
  obtain ⟨hn2, hk2⟩ := data_levels h n a.cached
  rw [← cb] at hn2 hk2
  have hb_e : b.cached.getLsbD e = true := by
    rw [hk2 e h.e_lt h.e_d4 h.e_d5 h.e_d6 h.e_d7, ca]; exact hl1.enable
  have ha_e : a.cached.getLsbD e = true := by rw [ca]; exact hl1.enable
  obtain ⟨hl3, hk3⟩ := control_levels h false r b.cached
  have ev3 : (if r then bitRs s.cfg else 0) ||| (if false = true then bitE s.cfg s.active else 0) = s.rs := by
    rw [hr]; simp
  rw [ev3, ← cc] at hl3 hk3
  have hfc : pwControl s.rs b = pw (controlMask s.cfg s.active) s.rs b := by
    rw [← b_cfg, ← b_act]; rfl
  rw [b_cfg, b_act] at hc3
  rw [hfc]
  refine ⟨se, so, hl3, ?_, ?_⟩
  · rw [dataNibble_congr h hk3]; exact hn2
  · have l1 := pw_clean_lcdOf hc1 s.active
    have l2 := pw_clean_lcdOf hc2 s.active
    have l3 := pw_clean_lcdOf hc3 s.active
    rw [show pw (controlMask s.cfg s.active) (s.rs ||| bitE s.cfg s.active) s = a from ha] at l1
    rw [hb] at l2
    have f1 : enableFalls s.cfg s.active s.cached
        (mergeByte (controlMask s.cfg s.active) s.cached (s.rs ||| bitE s.cfg s.active)) = false := by
      rw [enableFalls_eq h, ev1, hl1.enable]; simp
    have f2 : enableFalls s.cfg s.active a.cached (mergeByte (dataMask s.cfg) a.cached (dbus s.cfg n)) = false := by
      rw [enableFalls_eq h, ← cb, hb_e]; simp
    have f3 : enableFalls s.cfg s.active b.cached (mergeByte (controlMask s.cfg s.active) b.cached s.rs) = true := by
      rw [enableFalls_eq h, ← cc, hl3.enable, hb_e]; rfl
    rw [lcdSee, f1] at l1
    rw [lcdSee, a_cfg, f2] at l2
    rw [lcdSee, b_cfg, f3] at l3
    simp only [Bool.false_eq_true, if_false, if_true] at l1 l2 l3
    refine ⟨Config.undrivenNibble s.active (b.drawn + 1), Config.strayAddress s.active (b.drawn + 1), ?_⟩
    rw [l3, l2, l1]
    congr 1
    · rw [rsLevel_eq h, ← cc]; exact hl3.select
    · rw [← cc, dataNibble_congr h hk3]; exact hn2

/-- Step 1 of a byte: no latch when Enable is low before, one stray latch when it is high (spec R226). -/
theorem step1_clean (hc : (pwControl s.rs s).err = false) :
    s.err = false ∧ s.opened = true ∧ Levels s.cfg e (pwControl s.rs s).cached false r ∧
    (s.cached.getLsbD e = false → lcdOf s.active (pwControl s.rs s) = lcdOf s.active s) ∧
    ∃ u f, lcdOf s.active (pwControl s.rs s) = lcdOf s.active s ∨
      ∃ n, lcdOf s.active (pwControl s.rs s) = lcdLatch u f r n (lcdOf s.active s) := by
  have hc1 : (pw (controlMask s.cfg s.active) s.rs s).err = false := hc
  obtain ⟨se, so, -, -⟩ := pw_clean hc1
  have cc := pw_clean_cached hc1
  obtain ⟨hl, -⟩ := control_levels h false r s.cached
  have ev : (if r then bitRs s.cfg else 0) ||| (if false = true then bitE s.cfg s.active else 0) = s.rs := by
    rw [hr]; simp
  rw [ev, ← cc] at hl
  have l1 := pw_clean_lcdOf hc1 s.active
  rw [lcdSee, enableFalls_eq h, ← cc, hl.enable] at l1
  refine ⟨se, so, hl, ?_, Config.undrivenNibble s.active (s.drawn + 1), Config.strayAddress s.active (s.drawn + 1), ?_⟩
  · intro he
    rw [he, Bool.false_and, if_neg (by decide)] at l1
    exact l1
  · cases he : s.cached.getLsbD e with
    | false =>
      rw [he, Bool.false_and, if_neg (by decide)] at l1
      exact Or.inl l1
    | true =>
      rw [he, rsLevel_eq h, hl.select, Bool.not_false, Bool.and_self, if_pos rfl] at l1
      exact Or.inr ⟨_, l1⟩

end Clean

/-- A full byte to a listening controller (`DW` true, Enable low, a byte boundary) when no write fails (spec R112): it
receives that byte at the RS level, and Enable is low again. -/
theorem sendByte_clean {s : State} {e : Nat} (h : TransferPins s.cfg s.active e) {r : Bool}
    (hr : s.rs = if r then bitRs s.cfg else 0) (hd : s.dw = true) (hlow : s.cached.getLsbD e = false)
    (h4 : (lcdOf s.active s).fourBit = true) (hp : (lcdOf s.active s).pending = none) {v : Byte}
    (hc : (sendByte v s).err = false) :
    s.err = false ∧ s.opened = true ∧ Levels s.cfg e (sendByte v s).cached false r ∧
    dataNibble s.cfg (sendByte v s).cached = lowNibble v ∧
    ∃ f, lcdOf s.active (sendByte v s) = lcdReceive f r (highNibble v) (lowNibble v) (lcdOf s.active s) := by
  unfold sendByte at hc ⊢
  simp only [hd, if_true] at hc ⊢
  generalize ha : pwControl s.rs s = a at hc ⊢
  have a_cfg : a.cfg = s.cfg := by rw [← ha]; simp
  have a_act : a.active = s.active := by rw [← ha]; simp
  have a_rs : a.rs = s.rs := by rw [← ha]; simp
  generalize hb : strobe (highNibble v) a = b at hc ⊢
  have b_cfg : b.cfg = s.cfg := by rw [← hb]; simpa using a_cfg
  have b_act : b.active = s.active := by rw [← hb]; simpa using a_act
  have b_rs : b.rs = s.rs := by rw [← hb]; simpa using a_rs
  obtain ⟨be, -, lv, nib, u2, f2, l2⟩ := strobe_clean (s := b) (by rw [b_cfg, b_act]; exact h) (by rw [b_rs, b_cfg]; exact hr) hc
  have hc1 : (strobe (highNibble v) a).err = false := by rw [hb]; exact be
  obtain ⟨ae, -, -, -, u1, f1, l1⟩ := strobe_clean (s := a) (by rw [a_cfg, a_act]; exact h) (by rw [a_rs, a_cfg]; exact hr) hc1
  have hc0 : (pwControl s.rs s).err = false := by rw [ha]; exact ae
  obtain ⟨se, so, -, l0, -⟩ := step1_clean h hr hc0
  rw [b_cfg] at lv nib
  refine ⟨se, so, lv, nib, f2, ?_⟩
  rw [b_act] at l2
  rw [hb, a_act] at l1
  have l0 := l0 hlow
  rw [ha] at l0
  rw [l2, l1, l0]
  exact lcdLatch_pair h4 hp u1 u2 f1 f2 r r (highNibble v) (lowNibble v)

/-- A command byte to a listening controller when no write fails (spec R113). -/
theorem writeCommand_clean {s : State} {e : Nat} (h : TransferPins s.cfg s.active e) (hd : s.dw = true)
    (hlow : s.cached.getLsbD e = false) (h4 : (lcdOf s.active s).fourBit = true)
    (hp : (lcdOf s.active s).pending = none) {c : Byte} (hc : (writeCommand c s).err = false) :
    s.err = false ∧ s.opened = true ∧ Levels s.cfg e (writeCommand c s).cached false false ∧
    ∃ f, lcdOf s.active (writeCommand c s) = lcdReceive f false (highNibble c) (lowNibble c) (lcdOf s.active s) := by
  have hl : ∀ v t, lcdOf s.active (setRs v t) = lcdOf s.active t := by intro v t; cases s.active <;> rfl
  have key := sendByte_clean (s := setRs 0#8 s) (e := e) (r := false) h rfl hd hlow
    (by rw [← h4]; exact congrArg Lcd.fourBit (hl _ _)) (by rw [← hp]; exact congrArg Lcd.pending (hl _ _)) (v := c) hc
  obtain ⟨a, b, c1, -, f, d⟩ := key
  refine ⟨a, b, c1, f, ?_⟩
  rw [writeCommand, hl]
  rw [setRs_active, hl] at d
  exact d

/-- A run of data bytes to a listening controller when no write fails (spec R114, R62): the controller gets them all,
in order. -/
theorem writeAllData_clean {s : State} {e : Nat} (h : TransferPins s.cfg s.active e) (hr : s.rs = bitRs s.cfg)
    (hd : s.dw = true) (ds : List Byte) (hlow : s.cached.getLsbD e = false) (hrw : s.cached.getLsbD s.cfg.pins.rw = false)
    (h4 : (lcdOf s.active s).fourBit = true) (hp : (lcdOf s.active s).pending = none)
    (hc : (writeAllData ds s).err = false) :
    s.err = false ∧ (writeAllData ds s).cached.getLsbD e = false ∧
    (writeAllData ds s).cached.getLsbD s.cfg.pins.rw = false ∧
    lcdOf s.active (writeAllData ds s) = lcdDataAll ds (lcdOf s.active s) := by
  induction ds generalizing s with
  | nil => exact ⟨hc, hlow, hrw, rfl⟩
  | cons d rest ih =>
    have hc' : (writeAllData rest (writeData d s)).err = false := hc
    have e0 : (writeData d s).err = false := by
      by_contra hne
      have := writeAllData_err_sticky (s := writeData d s) (by simpa using hne) rest
      rw [hc'] at this
      exact absurd this (by decide)
    obtain ⟨se, -, lv, -, f, l⟩ := sendByte_clean (r := true) h (by simpa using hr) hd hlow h4 hp (v := d) e0
    have l' : lcdOf s.active (writeData d s) = lcdData d (lcdOf s.active s) := by
      have := lcdReceive_data f d (lcdOf s.active s)
      rw [← this]; exact l
    have md := lcdData_mode d (lcdOf s.active s)
    obtain ⟨-, a1, a2, a3⟩ := ih (s := writeData d s) (by simpa using h) (by simpa using hr) (by simpa using hd)
      lv.enable (by rw [writeData_cfg]; exact lv.readWrite) (by rw [writeData_active, l', md.1]; exact h4)
      (by rw [writeData_active, l', md.2.1]; exact hp) hc'
    simp only [writeData_active, writeData_cfg] at a1 a2 a3
    exact ⟨se, a1, a2, by show lcdOf s.active (writeAllData rest (writeData d s)) = _; rw [a3, l']; rfl⟩

end Sys2Proof.Machine
end

