-- ==== Sys2Proof/Tests/Slice0.lean ====
section
/-! SUPPORT. The model's own tests. Expected values are the spec's: spec/95_test_vectors.md (S1 to S11, 2.1 to 2.9, P1 to
P5) and the encodings of spec/30_encoding.md. Then one witness per statement with hypotheses. -/
namespace Sys2Proof.Tests

-- One test after the other: side by side, each of these kernel evaluations would hold a thread and its stack.
set_option Elab.async false

open Sys2Proof Sys2Proof.Machine

/-! ## Helpers -/

/-- PM_B (spec/42_display_ops.md): RS=0, RW=1, E1=2, E2=3, D4..D7=4..7, no backlight. -/
def pmB : PinMap :=
  { e1 := 2, e2 := some 3, rs := 0, rw := 1, d4 := 4, d5 := 5, d6 := 6, d7 := 7, bl := none }

/-- PM_C (2.2): data lines on pins 0..3, RS=4, RW=5, E1=6, BL=7. -/
def pmC : PinMap :=
  { e1 := 6, e2 := none, rs := 4, rw := 5, d4 := 0, d5 := 1, d6 := 2, d7 := 3, bl := some 7 }

def p16 : Params := Config.params
def p20 : Params := { p16 with width := 20, height := 4 }
def p40 : Params := { p16 with width := 40, height := 4, pins := pmB }
def pC : Params := { p16 with pins := pmC }

/-- READY after a clean CONNECT, `CACHED = cached`, the next `n` transport writes succeed. -/
def ready (p : Params) (cached : Byte) (n : Nat) : State :=
  { State.resetWith p with
    engState := .ready, initState := .initReady, dw := true, opened := true, cached := cached,
    oracle := List.replicate n true, lcd1 := freshLcd [],
    lcd2 := if dual p then freshLcd [] else Lcd.powerOn }

/-- Reset with `n` transport writes that succeed. -/
def fresh (p : Params) (n : Nat) : State := { State.resetWith p with oracle := List.replicate n true }

/-- The outcome is a next state that meets `f`. -/
def ok (o : Host.Outcome State Fault Refusal) (f : State → Bool) : Bool :=
  match o with
  | .next t => f t
  | .fault _ => false
  | .refused _ => false

/-- The bytes of the attempted writes. -/
def bytes (s : State) : List Byte :=
  s.log.filterMap (fun e =>
    match e with
    | .opened => none
    | .write v _ => some v
    | .delay _ => none
    | .closed => none)

/-- The results of the attempted writes. -/
def answers (s : State) : List Bool :=
  s.log.filterMap (fun e =>
    match e with
    | .opened => none
    | .write _ a => some a
    | .delay _ => none
    | .closed => none)

/-- Eight equal rows. -/
def rows (b : Byte) : List Byte := List.replicate 8 b

/-! ## WellFormed: each check refuses an ill-formed term -/

theorem test_wf_pattern_of_seven_rows : (Instr.setCgram 0x08 (List.replicate 7 0x10)).wellFormed = false := by decide
theorem test_wf_auto_pattern_of_nine_rows : (Instr.setCgramAuto (List.replicate 9 0x10)).wellFormed = false := by decide
theorem test_wf_reserved_below_its_range : (Instr.reserved 0x0D).wellFormed = false := by decide
theorem test_wf_reserved_first : (Instr.reserved 0x0E).wellFormed = true := by decide

/-- 2.9: `PIN_D4 = PIN_RS`; 40×4 without `PIN_E2`; `PIN_E1 = 8`. -/
theorem test_params_ill_formed :
    wellFormedParams { p16 with pins := { p16.pins with d4 := 0 } } = false ∧
    wellFormedParams { p40 with pins := { pmB with e2 := none } } = false ∧
    wellFormedParams { p16 with pins := { p16.pins with e1 := 8 } } = false := by decide
theorem test_params_out_of_range :
    wellFormedParams { p16 with width := 0 } = false ∧ wellFormedParams { p40 with width := 41 } = false ∧
    wellFormedParams { p16 with height := 3 } = false ∧ wellFormedParams { p16 with tInit := 1999 } = false := by decide
theorem test_params_well_formed :
    wellFormedParams p16 = true ∧ wellFormedParams p20 = true ∧ wellFormedParams p40 = true ∧
    wellFormedParams pC = true := by decide
theorem test_step_refuses_ill_formed_params :
    step { State.reset with cfg := { p16 with width := 41 } } = .refused .configurationError := by rfl

/-! ## Decode: words written out from the spec's encodings -/

theorem test_decode_nop : decodeFrame [0x00] = .ok .nop := by decide
theorem test_decode_connect : decodeFrame [0x01] = .ok .connect := by decide
theorem test_decode_disconnect : decodeFrame [0x02] = .ok .disconnect := by decide
theorem test_decode_print : decodeFrame [0x03, 0x01, 0x48, 0x69] = .ok (.print 1 [0x48, 0x69]) := by decide
theorem test_decode_print_empty_text : decodeFrame [0x03, 0x02] = .ok (.print 2 []) := by decide
theorem test_decode_clearLine : decodeFrame [0x04, 0x02] = .ok (.clearLine 2) := by decide
theorem test_decode_clearDisplay : decodeFrame [0x05] = .ok .clearDisplay := by decide
theorem test_decode_backlight_bit_0_only : decodeFrame [0x06, 0xFE] = .ok (.backlight false) := by decide
theorem test_decode_backlight_on : decodeFrame [0x06, 0x01] = .ok (.backlight true) := by decide
theorem test_decode_setCgram_ignores_bits_7_6 :
    decodeFrame [0x07, 0x48, 1, 2, 3, 4, 5, 6, 7, 8] = .ok (.setCgram 0x08 [1, 2, 3, 4, 5, 6, 7, 8]) := by decide
theorem test_decode_setCgramAuto :
    decodeFrame [0x08, 1, 2, 3, 4, 5, 6, 7, 8] = .ok (.setCgramAuto [1, 2, 3, 4, 5, 6, 7, 8]) := by decide
theorem test_decode_initBargraph : decodeFrame [0x09] = .ok .initBargraph := by decide
theorem test_decode_hasBacklight : decodeFrame [0x0A] = .ok .hasBacklight := by decide
theorem test_decode_getWidth : decodeFrame [0x0B] = .ok .getWidth := by decide
theorem test_decode_getHeight : decodeFrame [0x0C] = .ok .getHeight := by decide
theorem test_decode_bargraph : decodeFrame [0x0D, 0x02, 0x25] = .ok (.bargraph 2 37) := by decide
theorem test_decode_reserved :
    decodeFrame [0x0E] = .ok (.reserved 0x0E) ∧ decodeFrame [0xEE, 0x01] = .ok (.reserved 0xEE) := by decide
theorem test_decode_short_frames :
    decodeFrame [0x07, 0x08, 1, 2, 3, 4, 5, 6, 7] = .error (.shortFrame 0x07) ∧
    decodeFrame [0x03] = .error (.shortFrame 0x03) ∧ decodeFrame [] = .error .emptyFrame := by decide
theorem test_decode_extra_bytes_ignored : decodeFrame [0x04, 0x02, 0x41, 0x42] = .ok (.clearLine 2) := by decide

/-- R86: `0x80 | address`; line 2 is 0xC0, 40×4 line 4 is 0xE8. -/
theorem test_decode_lcdSetDdramAddr :
    decodeLcdCommand 0xC0 = .ok (.lcdSetDdramAddr 0x40) ∧ decodeLcdCommand 0xE8 = .ok (.lcdSetDdramAddr 0x68) := by decide
theorem test_decode_lcdSetCgramAddr : decodeLcdCommand 0x48 = .ok (.lcdSetCgramAddr 0x08) := by decide
theorem test_decode_lcdFunctionSet : decodeLcdCommand 0x28 = .ok .lcdFunctionSet := by decide
theorem test_decode_lcdDisplayOff : decodeLcdCommand 0x08 = .ok .lcdDisplayOff := by decide
theorem test_decode_lcdClearDisplay : decodeLcdCommand 0x01 = .ok .lcdClearDisplay := by decide
theorem test_decode_lcdEntryMode : decodeLcdCommand 0x06 = .ok .lcdEntryMode := by decide
theorem test_decode_lcdDisplayOn : decodeLcdCommand 0x0C = .ok .lcdDisplayOn := by decide
theorem test_decode_lcdForce8bit : decodeLcdNibble 0x3 = .ok .lcdForce8bit := by decide
theorem test_decode_lcdSwitch4bit : decodeLcdNibble 0x2 = .ok .lcdSwitch4bit := by decide
theorem test_decode_lcdData : decodeLayer .lcdData [0x5A] = .ok (.lcdData 0x5A) := by decide
/-- R91: return home, shift, the other function sets and the other nibbles are never sent. -/
theorem test_decode_never_sent :
    decodeLcdCommand 0x02 = .error (.lcdCommandNotSent 0x02) ∧ decodeLcdCommand 0x18 = .error (.lcdCommandNotSent 0x18) ∧
    decodeLcdCommand 0x38 = .error (.lcdCommandNotSent 0x38) ∧ decodeLcdNibble 0xF = .error (.lcdNibbleNotSent 0xF) := by
  decide

/-- The table's numbering: the operand bytes the table gives no bits for read as 0. -/
theorem test_decodeTableWord :
    decodeTableWord 8 0x00 = some .nop ∧ decodeTableWord 8 0x03 = some (.print 0 []) ∧
    decodeTableWord 8 0x07 = some (.setCgram 0 (rows 0)) ∧ decodeTableWord 8 0x0E = some (.reserved 0x0E) := by decide

/-! ## Operand functions -/

/-- 2.1: the masked-write table. -/
theorem test_mergeByte :
    mergeByte 0xF0 0xA5 0x3C = 0xAC ∧ mergeByte 0xFF 0xAC 0x00 = 0xAC ∧ mergeByte 0x00 0xAC 0x5A = 0x5A ∧
    mergeByte 0xF8 0xC0 0x04 = 0xC4 := by decide
/-- R59, R115: PM_A's masks, PM_B's second controlMask; R64: PM_C's `dbus`. -/
theorem test_masks_and_dbus :
    controlMask p16 .one = 0xF8 ∧ dataMask p16 = 0x0F ∧ controlMask p40 .two = 0xF4 ∧
    dbus pC 0xC = 0x0C ∧ dbus p16 0xC = 0xC0 := by decide
/-- 2.4: rows of the `lineAddr` table. -/
theorem test_lineAddr_single :
    [0, 1, 2, 3, 4, 5].map (lineAddr p16) =
      [(.one, 0x00), (.one, 0x00), (.one, 0x40), (.one, 0x00), (.one, 0x00), (.one, 0x00)] ∧
    [0, 1, 2, 3, 4, 5].map (lineAddr p20) =
      [(.one, 0x00), (.one, 0x00), (.one, 0x40), (.one, 0x14), (.one, 0x54), (.one, 0x00)] := by decide
theorem test_lineAddr_dual :
    [0, 1, 2, 3, 4, 5].map (lineAddr p40) =
      [(.one, 0x00), (.one, 0x00), (.one, 0x40), (.two, 0x28), (.two, 0x68), (.one, 0x00)] ∧
    lineAddr { p40 with width := 21 } 4 = (.two, 0x55) ∧ dual p20 = false ∧ dual { p20 with width := 21 } = true := by
  decide
/-- 2.8. -/
theorem test_barString :
    barString 0 16 = List.replicate 16 0x00 ∧ barString 1 16 = 0x01 :: List.replicate 15 0x00 ∧
    barString 37 16 = List.replicate 7 0x05 ++ [0x02] ++ List.replicate 8 0x00 ∧
    barString 79 16 = List.replicate 15 0x05 ++ [0x04] ∧ barString 81 16 = List.replicate 16 0x05 := by decide
theorem test_glyph :
    (List.range 6).map glyph = [rows 0x00, rows 0x10, rows 0x18, rows 0x1C, rows 0x1E, rows 0x1F] := by decide

/-! ## The Port and the transfer primitive -/

/-- 2.1: a failed masked write leaves the cache. -/
theorem test_maskedWrite_fails :
    (maskedWrite 0xF0 0x3C { ready p16 0xA5 0 with oracle := [false] }).1 = false ∧
    (maskedWrite 0xF0 0x3C { ready p16 0xA5 0 with oracle := [false] }).2.cached = 0xA5 ∧
    (maskedWrite 0xF0 0x3C { ready p16 0xA5 0 with oracle := [false] }).2.log = [.write 0xAC false] := by decide
/-- 2.1: `setPin(3, true)` from 0x11 and from 0x19, `setPin(0, false)` from 0x19. -/
theorem test_setPin :
    (setPin 3 true (ready p16 0x11 1)).2.cached = 0x19 ∧ (setPin 3 true (ready p16 0x19 1)).2.cached = 0x19 ∧
    (setPin 0 false (ready p16 0x19 1)).2.cached = 0x18 := by decide
/-- 2.2: `sendByte(0x3F)` with `DW` false drops the low nibble. -/
theorem test_sendByte_one_nibble :
    bytes (sendByte 0x3F (setRs 0 (setDw false (ready p16 0x00 4)))) = [0x00, 0x04, 0x34, 0x30] := by decide
/-- 2.2, PM_C: `writeCommand(0xC0)` then `writeData(0x41)`. -/
theorem test_transfers_pmC :
    bytes (writeData 0x41 (writeCommand 0xC0 (ready pC 0x0C 14))) =
      [0x0C, 0x4C, 0x4C, 0x0C, 0x4C, 0x40, 0x00, 0x10, 0x50, 0x54, 0x14, 0x54, 0x51, 0x11] := by decide +kernel
/-- 2.1: two closes, one transport close. -/
theorem test_close_twice : (closePort (closePort (ready p16 0xC0 0))).log = [.closed] := by decide
/-- R55: a read that fails gives zero; a closed Port is not read, so no answer is drawn. -/
theorem test_readInputByte_fails :
    (readInputByte { ready p16 0xC0 0 with oracle := [false] }).1 = 0x00 ∧
    readInputByte (fresh p16 1) = (0x00, fresh p16 1) := by decide

/-! ## Instructions: single steps -/

theorem test_nop : exec .nop (ready p16 0xC0 0) = .next (ready p16 0xC0 0) := by rfl

/-- 2.3 row 1. -/
theorem test_connect_trace :
    ok (exec .connect (fresh p16 51)) (fun t =>
      decide (bytes t =
        [0x00, 0x04, 0x34, 0x30, 0x30, 0x34, 0x34, 0x30, 0x30, 0x34, 0x34, 0x30, 0x30, 0x34, 0x24, 0x20,
         0x20, 0x24, 0x24, 0x20, 0x24, 0x84, 0x80, 0x80, 0x84, 0x04, 0x00, 0x04, 0x84, 0x80,
         0x80, 0x84, 0x04, 0x00, 0x04, 0x14, 0x10, 0x10, 0x14, 0x04, 0x00, 0x04, 0x64, 0x60,
         0x60, 0x64, 0x04, 0x00, 0x04, 0xC4, 0xC0] ∧
        t.log[5]? = some (.delay 2000) ∧ t.cached = 0xC0 ∧ t.engState = .ready ∧ t.lcd1 = freshLcd [])) = true := by
  decide +kernel
/-- 2.3 row 4: the second run is strobed on E2. -/
theorem test_connect_dual :
    ok (exec .connect (fresh p40 102)) (fun t =>
      decide (((bytes t).drop 51).take 8 = [0xC0, 0xC8, 0x38, 0x30, 0x30, 0x38, 0x38, 0x30] ∧ t.cached = 0xC0 ∧
        (bytes t).length = 102 ∧ delays t.log = 2 ∧ t.active = .one ∧ t.lcd2 = freshLcd [])) = true := by
  decide +kernel

/-- P2: the second DISCONNECT does nothing; no Port write; the displays stay. -/
theorem test_disconnect :
    ok (exec .disconnect (ready p40 0x10 0)) (fun t =>
      decide (t.engState = .disconnected ∧ t.initState = .uninitialized ∧ t.dw = false ∧ t.opened = false ∧
        t.log = [.closed] ∧ t.lcd1 = freshLcd [])) = true := by decide +kernel

/-- 2.4: `PRINT 1,"Hi"`. -/
theorem test_print_hi :
    ok (exec (.print 1 [0x48, 0x69]) (ready p16 0xC0 21)) (fun t =>
      decide (bytes t =
        [0xC0, 0xC4, 0x84, 0x80, 0x84, 0x04, 0x00, 0x01, 0x05, 0x45, 0x41, 0x45, 0x85, 0x81,
         0x81, 0x85, 0x65, 0x61, 0x65, 0x95, 0x91] ∧
        t.lcd1.ddram = [(0x00, 0x48), (0x01, 0x69)] ∧ t.lcd1.addr = .ddram 0x02)) = true := by decide +kernel
/-- 2.4: `PRINT 3,"Z"` on 40×4 goes to controller 2 at 0x28, and `ACTIVE` is 1 after. -/
theorem test_print_dual :
    ok (exec (.print 3 [0x5A]) (ready p40 0xC0 14)) (fun t =>
      decide (bytes t = [0xC0, 0xC8, 0xA8, 0xA0, 0xA8, 0x88, 0x80, 0x81, 0x89, 0x59, 0x51, 0x59, 0xA9, 0xA1] ∧
        t.lcd2.ddram = [(0x28, 0x5A)] ∧ t.lcd1.ddram = [] ∧ t.active = .one)) = true := by decide +kernel
/-- 2.2: the 3rd write of `PRINT 1,"A"` fails: the stale nibble C is latched. -/
theorem test_print_third_write_fails :
    ok (exec (.print 1 [0x41])
        { ready p16 0xC0 0 with oracle := [true, true, false] ++ List.replicate 11 true }) (fun t =>
      decide (bytes t = [0xC0, 0xC4, 0x84, 0xC0, 0xC4, 0x04, 0x00, 0x01, 0x05, 0x45, 0x41, 0x45, 0x15, 0x11] ∧
        (latchesFrom p16 0xC0 t.log).map Latch.nibble = [0xC, 0x0, 0x4, 0x1] ∧ t.err = true)) = true := by
  decide +kernel
/-- 2.2: the 4th write fails: one nibble is lost and the pairing shifts. -/
theorem test_print_fourth_write_fails :
    ok (exec (.print 1 [0x41])
        { ready p16 0xC0 0 with oracle := [true, true, true, false] ++ List.replicate 10 true }) (fun t =>
      decide (bytes t = [0xC0, 0xC4, 0x84, 0x80, 0x84, 0x04, 0x00, 0x01, 0x05, 0x45, 0x41, 0x45, 0x15, 0x11] ∧
        (latchesFrom p16 0xC0 t.log).map Latch.nibble = [0x0, 0x4, 0x1] ∧ t.cached = 0x11 ∧ t.err = true)) = true := by
  decide +kernel

/-- 2.5: `CLEAR_LINE 2`: 119 writes, row 2 blank, row 1 as it was. -/
theorem test_clearLine :
    ok (exec (.clearLine 2)
        { ready p16 0xC0 119 with lcd1 := { freshLcd [] with ddram := [(0x00, 0x41), (0x4F, 0x42), (0x50, 0x43)] } })
      (fun t => decide ((bytes t).length = 119 ∧ t.lcd1.ddram = [(0x00, 0x41), (0x50, 0x43)])) = true := by
  decide +kernel

/-- 2.5: PM_B 40×4 from 0xA1. -/
theorem test_clearDisplay :
    ok (exec .clearDisplay { ready p40 0xA1 14 with lcd2 := { freshLcd [] with ddram := [(0x28, 0x5A)] } })
      (fun t => decide (bytes t =
        [0xA0, 0xA4, 0x04, 0x00, 0x04, 0x14, 0x10, 0x10, 0x18, 0x08, 0x00, 0x08, 0x18, 0x10] ∧ t.lcd2.ddram = [])) =
      true := by decide +kernel

/-- 2.7: 19, then 11. -/
theorem test_backlight :
    ok (exec (.backlight true) (ready p16 0x11 1)) (fun t => decide (bytes t = [0x19] ∧ t.cached = 0x19)) = true ∧
    ok (exec (.backlight false) (ready p16 0x19 1)) (fun t => decide (bytes t = [0x11] ∧ t.cached = 0x11)) = true := by
  decide +kernel
theorem test_backlight_without_pin : exec (.backlight true) (ready p40 0x11 1) = .next (ready p40 0x11 1) := by rfl

/-- 2.6: `SET_CGRAM 0x08,[0x10]*8` from 0x18. -/
theorem test_setCgram :
    ok (exec (.setCgram 0x08 (rows 0x10)) (ready p16 0x18 63)) (fun t =>
      decide ((bytes t).take 14 =
        [0x18, 0x1C, 0x4C, 0x48, 0x4C, 0x8C, 0x88, 0x89, 0x8D, 0x1D, 0x19, 0x1D, 0x0D, 0x09] ∧
        (bytes t).length = 63 ∧ t.cached = 0x09 ∧
        t.lcd1.cgram = (List.range 8).map (fun j => (8 + j, 0x10)))) = true := by decide +kernel
/-- 2.6: on 40×4 both controllers, 126 writes; misaligned address 0x0B lands at 0x0B..0x12. -/
theorem test_setCgram_dual_misaligned :
    ok (exec (.setCgram 0x0B (rows 0xFF)) (ready p40 0xC0 126)) (fun t =>
      decide ((bytes t).length = 126 ∧ t.active = .one ∧ t.lcd1.cgram = (List.range 8).map (fun j => (11 + j, 0xFF)) ∧
        t.lcd2.cgram = t.lcd1.cgram)) = true := by decide +kernel

/-- R180: result 0x00, empty trace, in any state. -/
theorem test_setCgramAuto :
    ok (exec (.setCgramAuto (rows 0x1F)) State.reset) (fun t => decide (t.results = [0x00] ∧ t.log = [])) = true := by
  decide

/-- 2.8: 378 writes, end `CACHED` = 0xF1; P4: the CGRAM. -/
theorem test_initBargraph :
    ok (exec .initBargraph (ready p16 0xC0 378)) (fun t =>
      decide ((bytes t).length = 378 ∧ t.cached = 0xF1 ∧
        [0x00, 0x07, 0x08, 0x10, 0x18, 0x20, 0x28, 0x2F, 0x30].map (Memory.read .cgram t.lcd1.cgram) =
          [0x00, 0x00, 0x10, 0x18, 0x1C, 0x1E, 0x1F, 0x1F, 0x00])) = true := by decide +kernel

/-- 2.8: `BARGRAPH 2, 37` from 0xF1. -/
theorem test_bargraph :
    ok (exec (.bargraph 2 37) (ready p16 0xF1 119)) (fun t =>
      decide ((bytes t).length = 119 ∧ (bytes t).take 7 = [0xF0, 0xF4, 0xC4, 0xC0, 0xC4, 0x04, 0x00] ∧ t.cached = 0x01 ∧
        (List.range 16).map (fun k => Memory.read .ddram t.lcd1.ddram (0x40 + k)) =
          [5, 5, 5, 5, 5, 5, 5, 2, 0, 0, 0, 0, 0, 0, 0, 0])) = true := by decide +kernel

/-- 2.7. -/
theorem test_hasBacklight :
    ok (exec .hasBacklight State.reset) (fun t => decide (t.results = [0x01])) = true ∧
    ok (exec .hasBacklight (State.resetWith p40)) (fun t => decide (t.results = [0x00])) = true := by decide
theorem test_getWidth :
    ok (exec .getWidth State.reset) (fun t => decide (t.results = [0x10])) = true ∧
    ok (exec .getWidth (State.resetWith p40)) (fun t => decide (t.results = [0x28])) = true := by decide
theorem test_getHeight :
    ok (exec .getHeight State.reset) (fun t => decide (t.results = [0x02])) = true ∧
    ok (exec .getHeight (State.resetWith p40)) (fun t => decide (t.results = [0x04])) = true := by decide
theorem test_reserved : exec (.reserved 0xEE) (ready p16 0xC0 3) = .next (ready p16 0xC0 3) := by rfl

/-- R89's worked example: command 0xC0 from 0x90. -/
theorem test_lcdSetDdramAddr :
    ok (exec (.lcdSetDdramAddr 0x40) (ready p16 0x90 7)) (fun t =>
      decide (bytes t = [0x90, 0x94, 0xC4, 0xC0, 0xC4, 0x04, 0x00] ∧ t.lcd1.addr = .ddram 0x40)) = true := by
  decide +kernel
/-- 2.6: the first command of `SET_CGRAM 0x08`. -/
theorem test_lcdSetCgramAddr :
    ok (exec (.lcdSetCgramAddr 0x08) (ready p16 0x18 7)) (fun t =>
      decide (bytes t = [0x18, 0x1C, 0x4C, 0x48, 0x4C, 0x8C, 0x88] ∧ t.lcd1.addr = .cgram 0x08)) = true := by
  decide +kernel
/-- R138, line 2. -/
theorem test_lcdFunctionSet :
    ok (exec .lcdFunctionSet { ready p16 0x20 7 with lcd1 := { freshLcd [] with twoLine := false } }) (fun t =>
      decide (bytes t = [0x20, 0x24, 0x24, 0x20, 0x24, 0x84, 0x80] ∧ t.lcd1.twoLine = true)) = true := by
  decide +kernel
/-- R138, line 3. -/
theorem test_lcdDisplayOff :
    ok (exec .lcdDisplayOff (ready p16 0x80 7)) (fun t =>
      decide (bytes t = [0x80, 0x84, 0x04, 0x00, 0x04, 0x84, 0x80] ∧ t.lcd1.displayOn = false)) = true := by
  decide +kernel
/-- 2.2: `writeCommand(0x01)` from 0x11; `RS` = 0x01 after. -/
theorem test_lcdClearDisplay :
    ok (exec .lcdClearDisplay (ready p16 0x11 7)) (fun t =>
      decide (bytes t = [0x10, 0x14, 0x04, 0x00, 0x04, 0x14, 0x10] ∧ t.rs = 0x01)) = true := by decide +kernel
/-- R138, line 5. -/
theorem test_lcdEntryMode :
    ok (exec .lcdEntryMode { ready p16 0x10 7 with lcd1 := { freshLcd [] with increment := false } }) (fun t =>
      decide (bytes t = [0x10, 0x14, 0x04, 0x00, 0x04, 0x64, 0x60] ∧ t.lcd1.increment = true)) = true := by
  decide +kernel
/-- R138, line 6. -/
theorem test_lcdDisplayOn :
    ok (exec .lcdDisplayOn { ready p16 0x60 7 with lcd1 := { freshLcd [] with displayOn := false } }) (fun t =>
      decide (bytes t = [0x60, 0x64, 0x04, 0x00, 0x04, 0xC4, 0xC0] ∧ t.lcd1.displayOn = true)) = true := by
  decide +kernel
/-- R138, line 1: the first nibble. -/
theorem test_lcdForce8bit :
    ok (exec .lcdForce8bit { ready p16 0x00 4 with dw := false }) (fun t =>
      decide (bytes t = [0x00, 0x04, 0x34, 0x30])) = true := by decide +kernel
/-- R138, line 1: the last nibble, and `DW`. -/
theorem test_lcdSwitch4bit :
    ok (exec .lcdSwitch4bit { ready p16 0x30 4 with dw := false }) (fun t =>
      decide (bytes t = [0x30, 0x34, 0x24, 0x20] ∧ t.dw = true)) = true := by decide +kernel
/-- 2.2: `writeData(0x48)` from 0x00. -/
theorem test_lcdData :
    ok (exec (.lcdData 0x48) (ready p16 0x00 7)) (fun t =>
      decide (bytes t = [0x01, 0x05, 0x45, 0x41, 0x45, 0x85, 0x81] ∧ t.lcd1.ddram = [(0x00, 0x48)])) = true := by
  decide +kernel

/-- R133, R226 (c): the delay of each run stands after its fourth write; the backlight bit is `PORT_INIT`'s. -/
theorem test_connect_delays_and_background :
    ok (exec .connect (fresh { p40 with tInit := 4100 } 102)) (fun t =>
      decide (t.log[5]? = some (.delay 4100) ∧ t.log[57]? = some (.delay 4100))) = true ∧
    ok (exec .connect (fresh { p16 with portInit := 0xFF } 51)) (fun t => t.cached == 0xC8) = true := by decide +kernel
/-- R221: the engine's reset clears `ERR` and leaves the controllers as they are. -/
theorem test_resetEngine :
    (resetEngine { ready p16 0xC0 0 with err := true }).err = false ∧
    (resetEngine (ready p16 0xC0 0)).opened = false ∧ (resetEngine (ready p16 0xC0 0)).engState = .disconnected ∧
    (resetEngine (ready p16 0xC0 0)).lcd1 = freshLcd [] := by decide

/-! ## A step -/

/-- R81: `withFetchWord` puts the frame where the next step accepts it. -/
theorem test_step_runs_withFetchWord :
    ok (step (State.reset.withFetchWord 8 0x0B)) (fun t => decide (t.results = [0x10] ∧ t.hostIn = [])) = true := by
  decide
/-- R85: a short frame is consumed and changes nothing. -/
theorem test_step_short_frame : step (submit [0x07, 0x08] State.reset) = .next State.reset := by rfl
/-- R81, R93: a frame whose last byte has not arrived waits. -/
theorem test_step_waits :
    step { State.reset with hostIn := [{ data := 0x03, last := false }] } =
      .next { State.reset with hostIn := [{ data := 0x03, last := false }] } := by rfl
/-- P3: `PRINT 1,"X"` before CONNECT: nothing happens. -/
theorem test_step_print_not_ready :
    step (submit [0x03, 0x01, 0x58] State.reset) = .next State.reset := by rfl

/-! ## Witnesses

One concrete state and operands per statement with hypotheses, at boundary values where it has clauses. Where a clause
speaks of a next state without a failed write, the witness shows that one too. -/

/-- A state that is both READY between operations and in step. -/
theorem witness_ReadyBetweenOps :
    ReadyBetweenOps (ready p16 0xC0 0) ∧ ReadyBetweenOps (ready p20 0xC0 0) ∧ ReadyBetweenOps (ready p40 0xC0 0) := by
  decide
theorem witness_InStep :
    InStep (ready p16 0xC0 0) ∧ InStep (ready p20 0xC0 0) ∧ InStep (ready p40 0xC0 0) ∧ dual (ready p40 0xC0 0).cfg = true ∧
    (ready p40 0xC0 0).engState = .ready ∧ (ready p40 0xC0 0).err = false := by
  and_intros <;> decide +kernel

theorem witness_MemoriesWf :
    MemoriesWf (ready p16 0xC0 0) ∧ MemoriesWf (ready p40 0xC0 0) ∧
    MemoriesWf { ready p16 0xC0 0 with
      lcd1 := { freshLcd [(0x3F, 0x1F)] with ddram := [(0x00, 0x41), (0x7F, 0x42)] } } := by decide

theorem witness_DecodeOfEncodeIsTheInstruction :
    (Instr.setCgram 0x3F (rows 0xFF)).wellFormed = true ∧ (Instr.reserved 0xFF).wellFormed = true ∧
    (Instr.print 0xFF []).wellFormed = true ∧ (Instr.lcdData 0xFF).wellFormed = true := by decide
theorem witness_EncodeOfDecodedLcdWordIsTheWord :
    decodeLcdCommand 0xFF = .ok (.lcdSetDdramAddr 0x7F) ∧ decodeLcdCommand 0x7F = .ok (.lcdSetCgramAddr 0x3F) ∧
    decodeLcdCommand 0x01 = .ok .lcdClearDisplay ∧ decodeLcdNibble 0x2 = .ok .lcdSwitch4bit := by decide
theorem witness_FramesDecodeToWellFormedHostOperations :
    decodeFrame ([0x07, 0xFF] ++ rows 0xAA) = .ok (.setCgram 0x3F (rows 0xAA)) ∧
    decodeFrame [0xFF] = .ok (.reserved 0xFF) := by decide
theorem witness_ExtraOperandBytesAreIgnored :
    (0x07 : Byte) ≠ 0x03 ∧ fixedLength (0x07 : Byte).toNat ≤ (0x08 :: rows 0x10 : List Byte).length + 1 ∧
    (0xFF : Byte) ≠ 0x03 ∧ fixedLength (0xFF : Byte).toNat ≤ ([] : List Byte).length + 1 := by decide
theorem witness_SentFramesAreCutOffWhole : ([0x01] : List Byte) ≠ [] := by decide

theorem witness_StepRunsTheDecodedInstruction :
    wellFormedParams (submit [0x0D, 0x02, 0x25] (ready p16 0xC0 0)).cfg = true ∧
    takeFrame (submit [0x0D, 0x02, 0x25] (ready p16 0xC0 0)).hostIn = some ([0x0D, 0x02, 0x25], []) ∧
    decodeFrame [0x0D, 0x02, 0x25] = .ok (.bargraph 2 37) := by decide
theorem witness_StepWaitsForAFrame :
    wellFormedParams State.reset.cfg = true ∧ takeFrame State.reset.hostIn = none := by decide
theorem witness_ShortFramesAreConsumedWithoutEffect :
    wellFormedParams (submit [0x04] State.reset).cfg = true ∧
    ([] : List Byte).length + 1 < fixedLength (0x04 : Byte).toNat ∧
    takeFrame (submit [0x04] State.reset).hostIn = some ([0x04], []) := by decide
theorem witness_OnlyIllFormedParametersAreRefused :
    wellFormedParams { p40 with pins := { pmB with e2 := none } } = false ∧ wellFormedParams p40 = true ∧
    wellFormedParams (State.resetWith { p16 with width := 41 }).cfg = false ∧
    wellFormedParams State.reset.cfg = true := by decide
theorem witness_ResetMeetsTheInvariants :
    wellFormedParams { p40 with portInit := 0xFF } = true ∧ wellFormedParams p16 = true := by decide

theorem witness_StepKeepsTheInvariant :
    BetweenOps (submit [0x01] (fresh p40 102)) ∧
    ok (step (submit [0x01] (fresh p40 102))) (fun t => t.engState == .ready) = true ∧
    BetweenOps (submit [0x02] (ready p16 0xC0 0)) ∧
    ok (step (submit [0x02] (ready p16 0xC0 0))) (fun t => t.engState == .disconnected) = true := by decide +kernel
theorem witness_ExecKeepsMemoriesCanonical :
    MemoriesWf (ready p16 0xC0 14) ∧
    ok (exec (.print 1 [0x20]) (ready p16 0xC0 14)) (fun t => t.lcd1.ddram == []) = true := by decide +kernel
theorem witness_StepKeepsControllersInStep :
    BetweenOps (submit [0x05] (ready p40 0xC0 14)) ∧ InStep (submit [0x05] (ready p40 0xC0 14)) ∧
    ok (step (submit [0x05] (ready p40 0xC0 14))) (fun t => t.engState == .ready && !t.err) = true := by
  and_intros <;> decide +kernel

theorem witness_ParametersAndTraceArePreserved :
    ok (exec (.backlight true) (ready p16 0xC0 1)) (fun t => t.log == [.write 0xC8 true]) = true := by decide

theorem witness_MaskedWriteMergesBitByBit : (ready p16 0xA5 1).opened = true := by decide
theorem witness_SetPinChangesOneBit :
    0 < 8 ∧ 7 < 8 ∧ (ready p16 0xA5 1).opened = true ∧ nextAnswer (ready p16 0xA5 1) = true ∧
    nextAnswer { ready p16 0xA5 0 with oracle := [false] } = false := by decide
theorem witness_CloseIsIdempotent : (ready p16 0xC0 0).opened = true ∧ State.reset.opened = false := by decide

theorem witness_LcdTransfersComplete :
    Instr.layer .lcdSwitch4bit ≠ .hostFrame ∧ Instr.layer (.lcdData 0xFF) ≠ .hostFrame ∧
    (ready p16 0xC0 7).opened = true := by decide
theorem witness_LcdTransfersNeedAnOpenPort :
    Instr.layer .lcdDisplayOn ≠ .hostFrame ∧ State.reset.opened = false := by decide
theorem witness_LcdTransfersKeepOtherPinsAndTheOtherController :
    Instr.layer (.lcdData 0x5A) ≠ .hostFrame ∧ wellFormedParams (select .two (ready p40 0xC0 7)).cfg = true ∧
    ok (exec (.lcdData 0x5A) (select .two (ready p40 0xC0 7))) (fun t => t.cached == 0xA1 && !t.err) = true := by decide +kernel
theorem witness_TransferPortBytes :
    Instr.layer (.lcdSetDdramAddr 0x7F) ≠ .hostFrame ∧ wellFormedParams (select .two (ready p40 0xC0 7)).cfg = true ∧
    (select .two (ready p40 0xC0 7)).opened = true ∧ (select .two (ready p40 0xC0 7)).dw = true ∧
    (select .two (ready p40 0xC0 7)).rs = bitRs (select .two (ready p40 0xC0 7)).cfg ∧
    bitE (select .two (ready p40 0xC0 7)).cfg (select .two (ready p40 0xC0 7)).active ≠ 0 ∧
    AnswersOk 7 (select .two (ready p40 0xC0 7)) := by decide
theorem witness_HandshakePortBytes :
    Instr.layer .lcdForce8bit = .lcdNibble ∧ Instr.layer .lcdSwitch4bit = .lcdNibble ∧
    wellFormedParams (setDw false (ready p16 0xFF 4)).cfg = true ∧ (setDw false (ready p16 0xFF 4)).opened = true ∧
    (setDw false (ready p16 0xFF 4)).dw = false ∧
    bitE (setDw false (ready p16 0xFF 4)).cfg (setDw false (ready p16 0xFF 4)).active ≠ 0 ∧
    AnswersOk 4 (setDw false (ready p16 0xFF 4)) := by decide
theorem witness_StrobeLatches :
    wellFormedParams (ready p16 0xC0 3).cfg = true ∧ (ready p16 0xC0 3).opened = true ∧
    bitE (ready p16 0xC0 3).cfg (ready p16 0xC0 3).active ≠ 0 ∧
    (ready p16 0xC0 3).cached &&& bitE (ready p16 0xC0 3).cfg (ready p16 0xC0 3).active = 0 ∧
    (ready p16 0xC0 3).rs = bitRs (ready p16 0xC0 3).cfg ∧ (setRs 0 (ready p16 0xC0 3)).rs = 0 ∧
    (ready p16 0xC0 3).oracle.take 3 = [true, true, true] ∧
    { ready p16 0xC0 0 with oracle := [false, true, true] }.oracle.take 3 = [false, true, true] ∧
    { ready p16 0xC0 0 with oracle := [true, false, true] }.oracle.take 3 = [true, false, true] ∧
    { ready p16 0xC0 0 with oracle := [true, true, false] }.oracle.take 3 = [true, true, false] := by
  decide
theorem witness_LcdCommandsActOnTheActiveController :
    wellFormedParams (ready p16 0xC0 7).cfg = true ∧ (ready p16 0xC0 7).opened = true ∧ (ready p16 0xC0 7).dw = true ∧
    Listening .one (ready p16 0xC0 7) ∧ Listening .two (select .two (ready p40 0xC0 7)) ∧
    ok (exec (.lcdSetDdramAddr 0x7F) (ready p16 0xC0 7)) (fun t => !t.err) = true := by decide +kernel
/-- Both clauses, at the last address from which the counter still increments. -/
theorem witness_LcdDataIsStoredAtTheAddressCounter :
    Listening .one (ready p16 0xC0 7) ∧ MemoriesWf (ready p16 0xC0 7) ∧
    ok (exec (.lcdData 0x41) { ready p16 0xC0 7 with lcd1 := { freshLcd [] with addr := .ddram 0x7E } })
      (fun t => !t.err && t.lcd1.addr == .ddram 0x7F && t.lcd1.ddram == [(0x7E, 0x41)]) = true ∧
    ok (exec (.lcdData 0x1F) { ready p16 0xC0 7 with lcd1 := { freshLcd [] with addr := .cgram 0x3E } })
      (fun t => !t.err && t.lcd1.addr == .cgram 0x3F && t.lcd1.cgram == [(0x3E, 0x1F)]) = true := by decide +kernel
/-- From a controller in 4-bit mode with a half byte waiting, every write succeeding. -/
theorem witness_HandshakeResynchronisesAnyController :
    wellFormedParams (setDw false (ready p16 0xFF 16)).cfg = true ∧ (setDw false (ready p16 0xFF 16)).opened = true ∧
    (setDw false (ready p16 0xFF 16)).dw = false ∧
    bitE (setDw false (ready p16 0xFF 16)).cfg (setDw false (ready p16 0xFF 16)).active ≠ 0 ∧
    ok (exec .lcdForce8bit { setDw false (ready p16 0xFF 16) with lcd1 := { freshLcd [] with pending := some 0xA } })
      (fun t => !t.err) = true := by decide +kernel

theorem witness_ConnectCompletes :
    State.reset.engState = .disconnected ∧ dual State.reset.cfg = false ∧ dual (State.resetWith p40).cfg = true := by
  decide
theorem witness_ConnectWhenConnectedDoesNothing : (ready p16 0xC0 0).engState ≠ .disconnected := by decide
theorem witness_CleanConnectInitialisesEveryController :
    wellFormedParams (fresh p40 102).cfg = true ∧ (fresh p40 102).engState = .disconnected ∧
    ok (exec .connect { fresh p40 102 with lcd2 := { freshLcd [(5, 6)] with pending := some 0xA } })
      (fun t => !t.err) = true := by decide +kernel
theorem witness_CleanConnectLatches :
    wellFormedParams (fresh p40 102).cfg = true ∧ (fresh p40 102).engState = .disconnected ∧
    AnswersOk (if dual (fresh p40 102).cfg then 102 else 51) (fresh p40 102) ∧
    wellFormedParams (fresh { p16 with portInit := 0xFF } 51).cfg = true ∧
    AnswersOk (if dual (fresh { p16 with portInit := 0xFF } 51).cfg then 102 else 51)
      (fresh { p16 with portInit := 0xFF } 51) := by decide +kernel
theorem witness_DisconnectCompletes :
    State.reset.engState = .disconnected ∧ (ready p16 0xC0 0).engState ≠ .disconnected := by decide

theorem witness_GatedOperationsNeedReady :
    gated (.print 9 []) = true ∧ gated (.bargraph 1 0xFF) = true ∧ State.reset.engState ≠ .ready := by decide
/-- 2.9: NotReady is tested before the line. -/
theorem witness_ErrorConditionsAreNoOpsOrDefaults :
    conditionMet (.print 9 [0x41]) State.reset = some .notReady ∧
    conditionMet (.print 9 [0x41]) (ready p16 0xC0 0) = some .invalidLineNumber ∧
    conditionMet (.clearLine 0) (ready p16 0xC0 0) = some .invalidLineNumber ∧
    conditionMet (.bargraph 3 5) (ready p16 0xC0 0) = some .invalidLineNumber ∧
    conditionMet (.bargraph 2 5) (ready p16 0xC0 0) = none := by decide
/-- The largest geometry, and the smallest. -/
theorem witness_LineAddressMap :
    wellFormedParams p40 = true ∧ p40.height = 4 ∧ wellFormedParams { p16 with width := 1, height := 1 } = true ∧
    p16.height < (3 : Byte).toNat := by decide
theorem witness_PrintCompletes :
    ReadyBetweenOps (ready p40 0xC0 14) ∧
    ok (exec (.print 3 [0x5A]) (ready p40 0xC0 14)) (fun t => !t.err) = true := by decide +kernel
theorem witness_PrintSendsTheAddressThenEveryByte :
    ReadyBetweenOps (ready p40 0xC0 14) ∧ InStep (ready p40 0xC0 14) ∧
    ok (exec (.print 4 [0x5A]) (ready p40 0xC0 14)) (fun t => !t.err) = true := by
  and_intros <;> decide +kernel

/-- Texts that end at the last DDRAM address and just before it. -/
theorem witness_PrintStoresItsText :
    ReadyBetweenOps (ready p16 0xC0 455) ∧ InStep (ready p16 0xC0 455) ∧ MemoriesWf (ready p16 0xC0 455) ∧
    (lineAddr (ready p16 0xC0 455).cfg 2).2.toNat + (List.replicate 64 0x41 : List Byte).length = 128 ∧
    ok (exec (.print 2 (List.replicate 64 0x41)) (ready p16 0xC0 455)) (fun t => !t.err) = true ∧
    ok (exec (.print 2 (List.replicate 63 0x41)) (ready p16 0xC0 455)) (fun t => !t.err && t.lcd1.addr == .ddram 0x7F) =
      true := by
  and_intros <;> decide +kernel

theorem witness_ClearLineBlanksItsRowOnly :
    ReadyBetweenOps (ready p40 0xC0 287) ∧ InStep (ready p40 0xC0 287) ∧ MemoriesWf (ready p40 0xC0 287) ∧
    (lineAddr (ready p40 0xC0 287).cfg 3).2.toNat + (ready p40 0xC0 287).cfg.width ≤ 128 ∧
    ok (exec (.clearLine 3) (ready p40 0xC0 287)) (fun t => !t.err) = true := by
  and_intros <;> decide +kernel

theorem witness_ClearDisplayCompletes :
    ReadyBetweenOps (ready p40 0xC0 14) ∧ InStep (ready p40 0xC0 14) ∧
    ok (exec .clearDisplay (ready p40 0xC0 14)) (fun t => !t.err) = true := by
  and_intros <;> decide +kernel

theorem witness_SetCgramCompletes :
    (rows 0xFF).length = 8 ∧ ReadyBetweenOps (ready p16 0xC0 63) ∧ dual (ready p16 0xC0 63).cfg = false ∧
    ok (exec (.setCgram 0x38 (rows 0xFF)) (ready p16 0xC0 63)) (fun t => !t.err) = true := by decide +kernel
/-- The last address whose 8 rows stay inside the CGRAM. -/
theorem witness_SetCgramStoresItsPattern :
    (rows 0xFF).length = 8 ∧ (0x38 : BitVec 6).toNat + 8 ≤ 64 ∧ ReadyBetweenOps (ready p40 0xC0 126) ∧
    InStep (ready p40 0xC0 126) ∧ MemoriesWf (ready p40 0xC0 126) ∧
    ok (exec (.setCgram 0x38 (rows 0xFF)) (ready p40 0xC0 126)) (fun t => !t.err) = true := by
  and_intros <;> decide +kernel

theorem witness_BacklightDrivesItsPin :
    ReadyBetweenOps (ready p16 0xC0 1) ∧ (ready p16 0xC0 1).cfg.pins.bl = some 3 ∧
    ok (exec (.backlight true) (ready p16 0xC0 1)) (fun t => !t.err) = true := by decide
theorem witness_BacklightWithoutAPinDoesNothing : (ready p40 0xC0 1).cfg.pins.bl = none := by decide
theorem witness_OnlyQueriesReturnResults :
    ok (exec .getWidth State.reset) (fun t => t.results == [0x10]) = true ∧
    ok (exec .nop State.reset) (fun t => t.results == []) = true := by decide
theorem witness_NopAndReservedOpcodesDoNothing : 0x0E ≤ (0x0E : Byte).toNat ∧ 0x0E ≤ (0xFF : Byte).toNat := by decide
/-- The three ranges of `k`: a full, the partial and an empty cell. -/
theorem witness_BarStringFillsTheField :
    5 * (6 + 1) ≤ 37 ∧ ¬ 5 * (7 + 1) ≤ 37 ∧ 5 * 7 < 37 ∧ ¬ 5 * 8 < 37 ∧ 8 < 16 := by decide
theorem witness_InitBargraphLoadsSixGlyphs :
    ReadyBetweenOps (ready p40 0xC0 756) ∧ InStep (ready p40 0xC0 756) ∧ MemoriesWf (ready p40 0xC0 756) ∧
    ok (exec .initBargraph (ready p40 0xC0 756)) (fun t => !t.err) = true := by
  and_intros <;> decide +kernel

theorem witness_BargraphPrintsTheBarString : ReadyBetweenOps (ready p16 0xF1 119) := by decide

theorem witness_OnlyConnectClearsErr :
    ok (exec .connect { fresh p16 51 with err := true }) (fun t => !t.err) = true ∧
    { fresh p16 51 with err := true }.err = true := by decide +kernel
theorem witness_ErrIsNeverRead :
    SameButErr (ready p16 0xC0 1) { ready p16 0xC0 1 with err := true } ∧
    ok (exec (.backlight true) (ready p16 0xC0 1)) (fun t => !t.err) = true ∧
    ok (exec (.backlight true) { ready p16 0xC0 1 with err := true }) (fun t => t.err) = true := by decide
theorem witness_ControllersAreNeverRead :
    SameButSinks (ready p16 0xC0 7) { ready p16 0xC0 7 with lcd1 := Lcd.powerOn } ∧
    ok (exec .clearDisplay (ready p16 0xC0 7)) (fun t => t.cached == 0x10) = true ∧
    ok (exec .clearDisplay { ready p16 0xC0 7 with lcd1 := Lcd.powerOn }) (fun t => t.cached == 0x10) = true := by
  decide +kernel
theorem witness_SingleGeometryNeverReachesControllerTwo :
    BetweenOps (submit [0x05] (ready p16 0xC0 7)) ∧ dual (submit [0x05] (ready p16 0xC0 7)).cfg = false ∧
    ok (step (submit [0x05] (ready p16 0xC0 7))) (fun t => !t.err) = true := by decide +kernel
theorem witness_ReadWriteIsNeverRaised :
    BetweenOps (ready p16 0xC0 7) ∧ (ready p16 0xC0 7).cached &&& bitRw (ready p16 0xC0 7).cfg = 0 ∧
    ok (exec .clearDisplay (ready p16 0xC0 7)) (fun t => t.log == [] ++ t.log) = true := by decide +kernel
theorem witness_OnlyConnectDelays :
    ok (exec .clearDisplay (ready p16 0xC0 7)) (fun t => delays t.log == 0) = true ∧ Instr.clearDisplay ≠ .connect := by
  decide +kernel
theorem witness_ResetAndDisconnectAgreeButForErr :
    BetweenOps { ready p40 0xC0 0 with err := true } ∧ BetweenOps State.reset := by decide
theorem witness_ConnectRebuildsEverything : State.reset.engState = .disconnected := by decide

end Sys2Proof.Tests
end

section
/-! SUPPORT. Proofs of the family 00_scope. What every instruction can do is said once (`exec_next`): it is a run of the engine's
moves that comes back to controller 1, or it is the CONNECT or the DISCONNECT that changes `ENG_STATE`. The invariant
between operations, the surroundings and the level of RW are then each a short case analysis over the six moves. -/
namespace Sys2Proof.Machine

/-! ## What a step can do -/

/-- A step of a machine that exists drops a part of the host's stream, or runs one operation without it (R81, R85). -/
theorem step_cases {s : State} (h : wellFormedParams s.cfg = true) :
    (∃ rest, step s = .next { s with hostIn := rest }) ∨ ∃ i rest, step s = exec i { s with hostIn := rest } := by
  unfold step accept
  rw [if_pos h]
  cases takeFrame s.hostIn with
  | none => exact .inl ⟨s.hostIn, rfl⟩
  | some cut =>
    obtain ⟨frame, rest⟩ := cut
    cases hd : decodeFrame frame with
    | error _ => exact .inl ⟨rest, by simp only [hd]⟩
    | ok i => exact .inr ⟨i, rest, by simp only [hd]⟩

/-! ## The moves of an operation -/

/-- The moves that every operation but CONNECT and DISCONNECT is made of. -/
inductive Move (s : State) : State → Prop
  | command (c : Byte) : Move s (writeCommand c s)
  | data (d : Byte) : Move s (writeData d s)
  | select (c : Controller) : Move s (select c s)
  | backlight {pin : Nat} (hbl : s.cfg.pins.bl = some pin) (level : Bool) :
      Move s (pw (~~~(pinBit pin)) (if level then pinBit pin else 0#8) s)
  | fourBit (ho : s.opened = true) : Move s (setDw true s)
  | result (b : Byte) : Move s (returnByte b s)

/-- A run of moves that ends on controller 1 when it starts there. -/
structure Operation (s t : State) : Prop where
  moves : Relation.ReflTransGen Move s t
  active : s.active = .one → t.active = .one

theorem Operation.refl (s : State) : Operation s s := ⟨.refl, id⟩

theorem Operation.trans {s t u : State} (h : Operation s t) (k : Operation t u) : Operation s u :=
  ⟨h.moves.trans k.moves, k.active ∘ h.active⟩

theorem Operation.command (c : Byte) (s : State) : Operation s (writeCommand c s) :=
  ⟨.single (.command c), by simp⟩

theorem Operation.data (d : Byte) (s : State) : Operation s (writeData d s) :=
  ⟨.single (.data d), by simp⟩

theorem Operation.result (b : Byte) (s : State) : Operation s (returnByte b s) :=
  ⟨.single (.result b), by simp⟩

/-- An excursion: select a controller, run an operation there, and come back to controller 1 (R115). -/
theorem Operation.excursion {c : Controller} {s t : State} (h : Operation (select c s) t) :
    Operation s (Machine.select .one t) :=
  ⟨(Relation.ReflTransGen.head (.select c) h.moves).tail (.select .one), fun _ => rfl⟩

theorem Operation.foldl {α : Type} {f : State → α → State} (h : ∀ s a, Operation s (f s a)) (l : List α) (s : State) :
    Operation s (l.foldl f s) := by
  induction l generalizing s with
  | nil => exact .refl s
  | cons a rest ih => exact (h s a).trans (ih (f s a))

theorem Operation.whenReady {f : State → State} {s : State} (h : Operation s (f s)) :
    Operation s (Machine.whenReady f s) := by
  unfold Machine.whenReady
  split
  · exact h
  · exact .refl s

theorem Operation.whenOpen {f : State → State} {s : State} (h : s.opened = true → Operation s (f s)) :
    Operation s (Machine.whenOpen f s) := by
  unfold Machine.whenOpen
  split
  next ho => exact h ho
  next => exact .refl s

theorem Operation.allData (ds : List Byte) (s : State) : Operation s (writeAllData ds s) :=
  .foldl (fun s d => .data d s) ds s

/-! ## Every operation is one -/

theorem printOp_operation (line : Byte) (text : List Byte) (s : State) : Operation s (printOp line text s) :=
  .whenReady (.excursion ((Operation.command _ _).trans (.allData text _)))

theorem clearDisplayNow_operation (s : State) : Operation s (clearDisplayNow s) := by
  have h1 := Operation.command clearDisplayByte s
  unfold clearDisplayNow
  split
  · exact h1.trans (.excursion (.command clearDisplayByte _))
  · exact h1

/-- SET_CGRAM's share of one controller, back on controller 1. -/
theorem programCgram_operation (c : Controller) (a : BitVec 6) (rows : List Byte) (s : State) :
    Operation s (select .one (programCgram c a rows s)) :=
  .excursion ((Operation.command _ _).trans (.allData rows _))

theorem setCgramOp_operation (a : BitVec 6) (rows : List Byte) (s : State) : Operation s (setCgramOp a rows s) := by
  refine .whenReady ?_
  unfold setCgramNow
  split
  · exact (programCgram_operation .one a rows s).trans (programCgram_operation .two a rows _)
  · exact programCgram_operation .one a rows s

theorem initBargraphOp_operation (s : State) : Operation s (initBargraphOp s) :=
  .foldl (fun s k => setCgramOp_operation (slotAddress k) (glyph k) s) _ s

/-- BACKLIGHT with a pin is one Port write whose failure is noted (R155). -/
theorem backlightNow_eq_pw {s : State} {pin : Nat} (h : s.cfg.pins.bl = some pin) (level : Bool) :
    backlightNow level s = pw (~~~(pinBit pin)) (if level then pinBit pin else 0#8) s := by
  unfold backlightNow
  rw [h]
  rfl

theorem backlightNow_operation (level : Bool) (s : State) : Operation s (backlightNow level s) := by
  cases h : s.cfg.pins.bl with
  | none => simpa only [backlightNow, h] using Operation.refl s
  | some pin =>
    rw [backlightNow_eq_pw h]
    exact ⟨.single (.backlight h level), by simp⟩

/-- LCD_SWITCH_4BIT sets `DW` beside its nibble, and only on an open Port (R137). -/
theorem switch4bit_operation {s : State} (ho : s.opened = true) :
    Operation s (setDw true (writeCommand (nibbleByte switch4bitNibble) s)) :=
  (Operation.command _ s).trans ⟨.single (.fourBit (by simpa using ho)), id⟩

/-! ## What an instruction can do -/

/-- What instruction `i` makes of the state `s`. -/
inductive Executed (s : State) : Instr → State → Prop
  | operation {i : Instr} {t : State} (h : Operation s t) : Executed s i t
  | connect (h : s.engState = .disconnected) : Executed s .connect (connectNow s)
  | disconnect (h : s.engState ≠ .disconnected) : Executed s .disconnect (disconnectNow s)

theorem execConnect_next (s : State) : ∃ t, execConnect s = .next t ∧ Executed s .connect t := by
  unfold execConnect
  split
  next h => exact ⟨_, rfl, .connect h⟩
  next => exact ⟨_, rfl, .operation (.refl s)⟩

theorem execDisconnect_next (s : State) : ∃ t, execDisconnect s = .next t ∧ Executed s .disconnect t := by
  unfold execDisconnect
  split
  next => exact ⟨_, rfl, .operation (.refl s)⟩
  next h => exact ⟨_, rfl, .disconnect h⟩

/-- Every instruction answers a next state (R205), reached in one of the three ways of `Executed`. -/
theorem exec_next (i : Instr) (s : State) : ∃ t, exec i s = .next t ∧ Executed s i t := by
  have lcd (c : Byte) : Operation s (whenOpen (writeCommand c) s) := .whenOpen fun _ => .command c s
  cases i with
  | nop => exact ⟨_, rfl, .operation (.refl s)⟩
  | connect => exact execConnect_next s
  | disconnect => exact execDisconnect_next s
  | print line text => exact ⟨_, rfl, .operation (printOp_operation line text s)⟩
  | clearLine line => exact ⟨_, rfl, .operation (printOp_operation line _ s)⟩
  | clearDisplay => exact ⟨_, rfl, .operation (.whenReady (clearDisplayNow_operation s))⟩
  | backlight enable => exact ⟨_, rfl, .operation (.whenReady (backlightNow_operation enable s))⟩
  | setCgram address pattern => exact ⟨_, rfl, .operation (setCgramOp_operation address pattern s)⟩
  | setCgramAuto pattern => exact ⟨_, rfl, .operation (.result _ s)⟩
  | initBargraph => exact ⟨_, rfl, .operation (initBargraphOp_operation s)⟩
  | hasBacklight => exact ⟨_, rfl, .operation (.result _ s)⟩
  | getWidth => exact ⟨_, rfl, .operation (.result _ s)⟩
  | getHeight => exact ⟨_, rfl, .operation (.result _ s)⟩
  | bargraph line value => exact ⟨_, rfl, .operation (printOp_operation line _ s)⟩
  | reserved opcode => exact ⟨_, rfl, .operation (.refl s)⟩
  | lcdSetDdramAddr a => exact ⟨_, rfl, .operation (lcd _)⟩
  | lcdSetCgramAddr a => exact ⟨_, rfl, .operation (lcd _)⟩
  | lcdFunctionSet => exact ⟨_, rfl, .operation (lcd _)⟩
  | lcdDisplayOff => exact ⟨_, rfl, .operation (lcd _)⟩
  | lcdClearDisplay => exact ⟨_, rfl, .operation (lcd _)⟩
  | lcdEntryMode => exact ⟨_, rfl, .operation (lcd _)⟩
  | lcdDisplayOn => exact ⟨_, rfl, .operation (lcd _)⟩
  | lcdForce8bit => exact ⟨_, rfl, .operation (lcd _)⟩
  | lcdSwitch4bit => exact ⟨_, rfl, .operation (.whenOpen switch4bit_operation)⟩
  | lcdData d => exact ⟨_, rfl, .operation (.whenOpen fun _ => .data d s)⟩

theorem executed_of_exec {i : Instr} {s t : State} (h : exec i s = .next t) : Executed s i t := by
  obtain ⟨u, hu, hx⟩ := exec_next i s
  rw [hu] at h
  exact Host.Outcome.next.inj h ▸ hx

/-! ## What Port writes keep -/

/-- What no Port write, selection or result changes, open Port or closed: the parameter set, the registers but `ACTIVE`,
`RS` and `ERR`, and the host's stream; the trace only grows. -/
structure Written (s t : State) : Prop where
  cfg : t.cfg = s.cfg
  engState : t.engState = s.engState
  initState : t.initState = s.initState
  dw : t.dw = s.dw
  opened : t.opened = s.opened
  hostIn : t.hostIn = s.hostIn
  log : s.log <+: t.log

theorem Written.refl (s : State) : Written s s := ⟨rfl, rfl, rfl, rfl, rfl, rfl, ⟨[], List.append_nil _⟩⟩

theorem Written.trans {s t u : State} (h : Written s t) (k : Written t u) : Written s u :=
  ⟨k.cfg.trans h.cfg, k.engState.trans h.engState, k.initState.trans h.initState, k.dw.trans h.dw,
    k.opened.trans h.opened, k.hostIn.trans h.hostIn, h.log.trans k.log⟩

theorem pw_written (m d : Byte) (s : State) : Written s (pw m d s) := by
  obtain ⟨cfg, engState, initState, dw, opened, hostIn, -⟩ := pw_kept m d s
  refine ⟨cfg, engState, initState, dw, opened, hostIn, ?_⟩
  obtain ⟨-, h⟩ | ⟨-, -, h⟩ | ⟨-, -, h⟩ := pw_cases m d s <;> simp [h]

theorem strobe_written (n : Nibble) (s : State) : Written s (strobe n s) :=
  ((pw_written _ _ s).trans (pw_written _ _ _)).trans (pw_written _ _ _)

theorem sendByte_written (v : Byte) (s : State) : Written s (sendByte v s) := by
  have h := (pw_written _ _ s).trans (strobe_written (highNibble v) (pwControl s.rs s))
  unfold sendByte
  split
  · exact h.trans (strobe_written _ _)
  · exact h

theorem setRs_written (v : Byte) (s : State) : Written s (setRs v s) := { Written.refl s with }

theorem writeCommand_written (c : Byte) (s : State) : Written s (writeCommand c s) :=
  ((setRs_written 0#8 s).trans (sendByte_written c _)).trans (setRs_written _ _)

/-! ## The invariant between operations -/

/-- R36's invariant without `ACTIVE`: what holds also in the middle of an operation, between two moves. -/
abbrev RegistersFit (s : State) : Prop :=
  wellFormedParams s.cfg = true ∧ s.rs = bitRs s.cfg ∧
  (s.engState = .ready → s.dw = true ∧ s.initState = .initReady ∧ s.opened = true) ∧
  (s.engState = .disconnected → s.dw = false ∧ s.initState = .uninitialized ∧ s.opened = false) ∧
  s.engState ≠ .connecting

theorem betweenOps_iff (s : State) : BetweenOps s ↔ s.active = .one ∧ RegistersFit s :=
  and_left_comm

theorem RegistersFit.rs_eq {s : State} (h : RegistersFit s) : s.rs = bitRs s.cfg := h.2.1

theorem RegistersFit.written {s t : State} (h : RegistersFit s) (w : Written s t) (hrs : t.rs = bitRs t.cfg) :
    RegistersFit t := by
  unfold RegistersFit
  rw [hrs, w.cfg, w.engState, w.initState, w.dw, w.opened]
  obtain ⟨hwf, -, hrest⟩ := h
  exact ⟨hwf, rfl, hrest⟩

/-- An open Port between moves means READY, where `DW` is true already (R36, R135). -/
theorem RegistersFit.dw_of_opened {s : State} (h : RegistersFit s) (ho : s.opened = true) : s.dw = true := by
  obtain ⟨-, -, hready, hdisc, hconn⟩ := h
  cases he : s.engState with
  | disconnected =>
    obtain ⟨-, -, hclosed⟩ := hdisc he
    exact absurd ho (by simp [hclosed])
  | connecting => exact absurd he hconn
  | ready => exact (hready he).1

theorem Move.registersFit {s t : State} (m : Move s t) (h : RegistersFit s) : RegistersFit t := by
  have hrs := h.rs_eq
  cases m with
  | command c => exact h.written (writeCommand_written c s) (by simp)
  | data d => exact h.written (sendByte_written d s) (by simp [hrs])
  | select c => exact h
  | backlight hbl level => exact h.written (pw_written _ _ s) (by simp [hrs])
  | fourBit ho =>
    have hsame : setDw true s = s := by rw [setDw, ← h.dw_of_opened ho]
    rwa [hsame]
  | result b => exact h

theorem Operation.betweenOps {s t : State} (o : Operation s t) (h : BetweenOps s) : BetweenOps t := by
  rw [betweenOps_iff] at h ⊢
  obtain ⟨hact, hfit⟩ := h
  obtain ⟨hmoves, hone⟩ := o
  refine ⟨hone hact, ?_⟩
  clear hone
  induction hmoves with
  | refl => exact hfit
  | tail _ m ih => exact m.registersFit ih

section InitSequence
variable (s : State)

@[simp] theorem initSequence_cfg : (initSequence s).cfg = s.cfg := by simp [initSequence, initModes, initHandshake]
@[simp] theorem initSequence_initState : (initSequence s).initState = .initReady := rfl
@[simp] theorem initSequence_active : (initSequence s).active = s.active := by
  simp [initSequence, initModes, initHandshake]
@[simp] theorem initSequence_rs : (initSequence s).rs = bitRs s.cfg := by simp [initSequence, initModes, initHandshake]
@[simp] theorem initSequence_dw : (initSequence s).dw = true := by simp [initSequence, initModes, initHandshake]
@[simp] theorem initSequence_opened : (initSequence s).opened = s.opened := by
  simp [initSequence, initModes, initHandshake]

end InitSequence

theorem connectNow_betweenOps {s : State} (h : wellFormedParams s.cfg = true) : BetweenOps (connectNow s) := by
  by_cases hd : dual s.cfg = true <;> simp [BetweenOps, connectNow, initControllers, hd, h]

@[simp] theorem closePort_cfg (s : State) : (closePort s).cfg = s.cfg := by unfold closePort; split <;> rfl
@[simp] theorem closePort_active (s : State) : (closePort s).active = s.active := by unfold closePort; split <;> rfl
@[simp] theorem closePort_rs (s : State) : (closePort s).rs = s.rs := by unfold closePort; split <;> rfl
@[simp] theorem closePort_hostIn (s : State) : (closePort s).hostIn = s.hostIn := by unfold closePort; split <;> rfl
@[simp] theorem closePort_opened (s : State) : (closePort s).opened = false := by
  unfold closePort
  split
  next => rfl
  next h => simpa using h

theorem closePort_log_grows (s : State) : s.log <+: (closePort s).log := by
  unfold closePort
  split
  · exact ⟨_, rfl⟩
  · exact ⟨[], List.append_nil _⟩

theorem disconnectNow_betweenOps {s : State} (h : BetweenOps s) : BetweenOps (disconnectNow s) := by
  obtain ⟨hwf, hact, hrs, -⟩ := h
  simp [BetweenOps, disconnectNow, hwf, hact, hrs]

theorem exec_betweenOps {i : Instr} {s t : State} (h : BetweenOps s) (hx : exec i s = .next t) : BetweenOps t := by
  cases executed_of_exec hx with
  | operation o => exact o.betweenOps h
  | connect _ => exact connectNow_betweenOps h.1
  | disconnect _ => exact disconnectNow_betweenOps h

/-- Settles O13: consuming host bytes touches no register, and every instruction keeps the invariant. -/
theorem stepKeepsTheInvariant : Obligations.StepKeepsTheInvariant := by
  intro s t h hs
  have hrest (rest : List HostByte) : BetweenOps { s with hostIn := rest } := h
  obtain ⟨rest, e⟩ | ⟨i, rest, e⟩ := step_cases h.1
  · rw [e] at hs
    exact Host.Outcome.next.inj hs ▸ hrest rest
  · exact exec_betweenOps (hrest rest) (e ▸ hs)

/-- Settles O10: `construct` and `step` test the parameter set first, and past the test every instruction has a next
state. -/
theorem onlyIllFormedParametersAreRefused : Obligations.OnlyIllFormedParametersAreRefused := by
  refine ⟨fun p h => by simp [construct, h], fun p h => by simp [construct, h], fun s h => by simp [step, h], ?_⟩
  intro s h
  obtain ⟨rest, e⟩ | ⟨i, rest, e⟩ := step_cases h
  · exact ⟨_, e⟩
  · obtain ⟨t, ht, -⟩ := exec_next i { s with hostIn := rest }
    exact ⟨t, e.trans ht⟩

/-! ## The machine's surroundings -/

/-- The parameter set and the host's stream stay, and the trace only grows. -/
structure SurroundingsKept (s t : State) : Prop where
  cfg : t.cfg = s.cfg
  hostIn : t.hostIn = s.hostIn
  log : s.log <+: t.log

theorem SurroundingsKept.refl (s : State) : SurroundingsKept s s := ⟨rfl, rfl, ⟨[], List.append_nil _⟩⟩

theorem SurroundingsKept.trans {s t u : State} (h : SurroundingsKept s t) (k : SurroundingsKept t u) :
    SurroundingsKept s u :=
  ⟨k.cfg.trans h.cfg, k.hostIn.trans h.hostIn, h.log.trans k.log⟩

theorem Written.surroundings {s t : State} (h : Written s t) : SurroundingsKept s t := ⟨h.cfg, h.hostIn, h.log⟩

theorem Move.surroundings {s t : State} (m : Move s t) : SurroundingsKept s t := by
  cases m with
  | command c => exact (writeCommand_written c s).surroundings
  | data d => exact (sendByte_written d s).surroundings
  | select c => exact { SurroundingsKept.refl s with }
  | backlight hbl level => exact (pw_written _ _ s).surroundings
  | fourBit ho => exact { SurroundingsKept.refl s with }
  | result b => exact { SurroundingsKept.refl s with }

theorem Operation.surroundings {s t : State} (o : Operation s t) : SurroundingsKept s t := by
  obtain ⟨hmoves, -⟩ := o
  induction hmoves with
  | refl => exact .refl s
  | tail _ m ih => exact ih.trans m.surroundings

theorem setEngState_surroundings (e : EngState) (s : State) : SurroundingsKept s (setEngState e s) :=
  { SurroundingsKept.refl s with }

theorem setInitState_surroundings (i : InitState) (s : State) : SurroundingsKept s (setInitState i s) :=
  { SurroundingsKept.refl s with }

theorem setDw_surroundings (b : Bool) (s : State) : SurroundingsKept s (setDw b s) :=
  { SurroundingsKept.refl s with }

theorem select_surroundings (c : Controller) (s : State) : SurroundingsKept s (select c s) :=
  { SurroundingsKept.refl s with }

theorem delayInit_surroundings (s : State) : SurroundingsKept s (delayInit s) :=
  ⟨rfl, rfl, ⟨_, rfl⟩⟩

/-- One command of an init run and the `INIT_STATE` it enters (R137). -/
theorem SurroundingsKept.initCommand {s t : State} (h : SurroundingsKept s t) (c : Byte) (i : InitState) :
    SurroundingsKept s (setInitState i (writeCommand c t)) :=
  (h.trans (writeCommand_written c t).surroundings).trans (setInitState_surroundings i _)

theorem initHandshake_surroundings (s : State) : SurroundingsKept s (initHandshake s) := by
  have hforce := (SurroundingsKept.refl s).initCommand (nibbleByte force8bitNibble) .force8bit1
  have hwait := hforce.trans (delayInit_surroundings _)
  exact (((hwait.initCommand _ _).initCommand _ _).initCommand _ _).trans (setDw_surroundings true _)

theorem initModes_surroundings (s : State) : SurroundingsKept s (initModes s) :=
  (((((SurroundingsKept.refl s).initCommand _ _).initCommand _ _).initCommand _ _).initCommand _ _).initCommand _ _

theorem initSequence_surroundings (s : State) : SurroundingsKept s (initSequence s) :=
  ((((setInitState_surroundings .uninitialized s).trans (setDw_surroundings false _)).trans
    (initHandshake_surroundings _)).trans (initModes_surroundings _)).trans (setInitState_surroundings .initReady _)

theorem initControllers_surroundings (s : State) : SurroundingsKept s (initControllers s) := by
  have hone := initSequence_surroundings s
  unfold initControllers
  split
  · exact ((hone.trans (select_surroundings .two _)).trans (initSequence_surroundings _)).trans
      (select_surroundings .one _)
  · exact hone

theorem connectNow_surroundings (s : State) : SurroundingsKept s (connectNow s) := by
  have hopen : SurroundingsKept s (setRs (bitRs s.cfg) (select .one (clearErr (openPort (setEngState .connecting s))))) :=
    ⟨rfl, rfl, ⟨_, rfl⟩⟩
  exact (hopen.trans (initControllers_surroundings _)).trans (setEngState_surroundings .ready _)

theorem disconnectNow_surroundings (s : State) : SurroundingsKept s (disconnectNow s) :=
  ⟨closePort_cfg s, closePort_hostIn s, closePort_log_grows s⟩

theorem exec_surroundings {i : Instr} {s t : State} (hx : exec i s = .next t) : SurroundingsKept s t := by
  cases executed_of_exec hx with
  | operation o => exact o.surroundings
  | connect _ => exact connectNow_surroundings s
  | disconnect _ => exact disconnectNow_surroundings s

/-- Settles O16: no move and no part of CONNECT or DISCONNECT writes the parameter set or the stream or drops an event. -/
theorem parametersAndTraceArePreserved : Obligations.ParametersAndTraceArePreserved := by
  intro i s t hx
  obtain ⟨hcfg, hin, evs, hlog⟩ := exec_surroundings hx
  exact ⟨hcfg, hin, evs, hlog.symm⟩

/-! ## A pin no write drives -/

/-- From a cache with the pins of `bit` low, every attempted write and the cache at the end have them low. -/
def StaysLow (bit : Byte) (s t : State) : Prop :=
  s.cached &&& bit = 0 → t.cached &&& bit = 0 ∧ ∃ evs, t.log = s.log ++ evs ∧ allLow bit evs = true

theorem StaysLow.of_same {bit : Byte} {s t : State} (hc : t.cached = s.cached) (hl : t.log = s.log) :
    StaysLow bit s t :=
  fun h => ⟨hc ▸ h, [], by simp [hl], rfl⟩

theorem StaysLow.trans {bit : Byte} {s t u : State} (h : StaysLow bit s t) (k : StaysLow bit t u) :
    StaysLow bit s u := by
  intro hs
  obtain ⟨ht, evs, he, hlow⟩ := h hs
  obtain ⟨hu, evs', he', hlow'⟩ := k ht
  refine ⟨hu, evs ++ evs', by rw [he', he, List.append_assoc], ?_⟩
  rw [allLow, List.all_append, Bool.and_eq_true]
  exact ⟨hlow, hlow'⟩

theorem or_low {bit v w : Byte} (hv : v &&& bit = 0) (hw : w &&& bit = 0) : (v ||| w) &&& bit = 0 := by
  rw [BitVec.and_or_distrib_right, hv, hw]
  rfl

theorem and_low {bit v : Byte} (hv : v &&& bit = 0) (w : Byte) : v &&& w &&& bit = 0 := by
  rw [BitVec.and_assoc, BitVec.and_comm w, ← BitVec.and_assoc, hv]
  exact BitVec.zero_and

/-- A merge of two bytes with a pin low has it low, whatever the mask (R51). -/
theorem mergeByte_low {bit o d : Byte} (ho : o &&& bit = 0) (hd : d &&& bit = 0) (m : Byte) :
    mergeByte m o d &&& bit = 0 :=
  or_low (and_low ho m) (and_low hd _)

theorem pw_staysLow {bit d : Byte} (hd : d &&& bit = 0) (m : Byte) (s : State) : StaysLow bit s (pw m d s) := by
  intro hs
  have hm := mergeByte_low hs hd m
  obtain ⟨-, e⟩ | ⟨-, -, e⟩ | ⟨-, -, e⟩ := pw_cases m d s
  · exact ⟨by simpa [e] using hs, [], by simp [e], rfl⟩
  · exact ⟨by simpa [e] using hm, [.write (mergeByte m s.cached d) true], by simp [e], by simp [allLow, hm]⟩
  · exact ⟨by simpa [e] using hs, [.write (mergeByte m s.cached d) false], by simp [e], by simp [allLow, hm]⟩

/-- The engine drives none of the pins of `bit` high: they are neither Register-Select, nor an Enable, nor a data line,
nor the backlight. -/
structure Undriven (p : Params) (bit : Byte) : Prop where
  select : bitRs p &&& bit = 0
  enable : ∀ c, bitE p c &&& bit = 0
  data : ∀ n, dbus p n &&& bit = 0
  backlight : ∀ pin, p.pins.bl = some pin → pinBit pin &&& bit = 0

section Undriven
variable {bit : Byte} {s : State} (h : Undriven s.cfg bit)
include h

theorem strobe_staysLow (hrs : s.rs &&& bit = 0) (n : Nibble) : StaysLow bit s (strobe n s) := by
  have hup := or_low hrs (h.enable s.active)
  exact ((pw_staysLow hup _ s).trans (pw_staysLow (h.data n) _ _)).trans (pw_staysLow hrs _ _)

theorem sendByte_staysLow (hrs : s.rs &&& bit = 0) (v : Byte) : StaysLow bit s (sendByte v s) := by
  have hhigh := (pw_staysLow hrs _ s).trans
    (strobe_staysLow (s := pwControl s.rs s) (by simpa using h) (by simpa using hrs) (highNibble v))
  unfold sendByte
  split
  · exact hhigh.trans (strobe_staysLow (by simpa using h) (by simpa using hrs) (lowNibble v))
  · exact hhigh

theorem writeCommand_staysLow (c : Byte) : StaysLow bit s (writeCommand c s) :=
  sendByte_staysLow (s := setRs 0#8 s) h BitVec.zero_and c

theorem Move.staysLow {t : State} (m : Move s t) (hrs : s.rs = bitRs s.cfg) : StaysLow bit s t := by
  cases m with
  | command c => exact writeCommand_staysLow h c
  | data d => exact sendByte_staysLow h (hrs ▸ h.select) d
  | select c => exact .of_same rfl rfl
  | @backlight pin hbl level =>
    cases level with
    | true => exact pw_staysLow (h.backlight pin hbl) _ s
    | false => exact pw_staysLow BitVec.zero_and _ s
  | fourBit ho => exact .of_same rfl rfl
  | result b => exact .of_same rfl rfl

/-- An operation from registers that fit leaves an undriven pin low. -/
theorem Operation.staysLow {t : State} (o : Operation s t) (hfit : RegistersFit s) : StaysLow bit s t := by
  have key : SurroundingsKept s t ∧ RegistersFit t ∧ StaysLow bit s t := by
    obtain ⟨hmoves, -⟩ := o
    induction hmoves with
    | refl => exact ⟨.refl s, hfit, .of_same rfl rfl⟩
    | tail _ m ih =>
      obtain ⟨hk, hf, hl⟩ := ih
      have hu := hk.cfg.symm ▸ h
      exact ⟨hk.trans m.surroundings, m.registersFit hf, hl.trans (m.staysLow hu hf.rs_eq)⟩
  exact key.2.2

end Undriven

/-- A pin mapped to no other signal is driven by none: the engine never drives RW high (R7, R117). -/
theorem undriven_bitRw {p : Params} (h : wellFormedParams p = true) : Undriven p (bitRw p) := by
  have tp := transferPins_of_wellFormed h (c := .one) rfl
  have low {i : Nat} (hi : i ≠ p.pins.rw) : pinBit i &&& bitRw p = 0 :=
    (and_pinBit_eq_zero tp.rw_lt _).mpr (by simp [getLsbD_pinBit, hi.symm])
  refine ⟨low tp.rs_rw, fun c => ?_, fun n => ?_, fun pin hbl => low ?_⟩
  · rw [bitE_eq]
    cases he : enablePin p.pins c with
    | none => exact BitVec.zero_and
    | some e => exact low (transferPins_of_wellFormed h he).e_rw
  · have line (b : Bool) {i : Nat} (hi : p.pins.rw ≠ i) : (if b then pinBit i else 0).getLsbD p.pins.rw = false := by
      cases b <;> simp [getLsbD_pinBit, hi]
    refine (and_pinBit_eq_zero tp.rw_lt _).mpr ?_
    simp only [dbus, BitVec.getLsbD_or, line _ tp.rw_d4, line _ tp.rw_d5, line _ tp.rw_d6, line _ tp.rw_d7, Bool.or_false]
  · have hnd := (pinsOk_of_wellFormed h).distinct
    simp only [presentPins, hbl, Option.toList_some, List.nodup_append (l₂ := [pin])] at hnd
    obtain ⟨-, -, hdisj⟩ := hnd
    exact (hdisj p.pins.rw (by simp) pin (by simp)).symm

/-- Settles O57: every instruction but CONNECT and DISCONNECT is an operation, and no operation drives RW. -/
theorem readWriteIsNeverRaised : Obligations.ReadWriteIsNeverRaised := by
  intro i s t evs h hlow hc hd hx hlog
  cases executed_of_exec hx with
  | operation o =>
    obtain ⟨-, hfit⟩ := (betweenOps_iff s).mp h
    obtain ⟨hend, evs', hlog', hall⟩ := o.staysLow (undriven_bitRw h.1) hfit hlow
    have hevs : evs = evs' := List.append_cancel_left (hlog.symm.trans hlog')
    exact ⟨hevs ▸ hall, hend⟩
  | connect _ => exact absurd rfl hc
  | disconnect _ => exact absurd rfl hd

end Sys2Proof.Machine
end

section
/-! SUPPORT. Proofs of the family 10_state. What the engine reads is said once (`Alike`, `exec_alike`): from states that
differ in `ERR` or in the sinks alone every instruction answers such states. What an operation does for every oracle is
said by `DisplayRun` (PRINT, SET_CGRAM), `Traced` (CONNECT) and `SparesTwo` (single geometry); the forced handshake by
how many nibbles a controller is away from 8-bit mode (`ForcedWithin`). -/
namespace Sys2Proof.Machine

/-! ## The LCD rows -/

/-- The transfers the LCD rows are (R80, R113, R114; SWITCH_4BIT sets `DW`, R137). -/
inductive Transfer : (State → State) → Prop
  | command (c : Byte) : Transfer (writeCommand c)
  | switch (c : Byte) : Transfer (fun s => setDw true (writeCommand c s))
  | data (d : Byte) : Transfer (writeData d)

/-- An LCD row is one transfer, made while the Port is open (R32). -/
theorem exec_lcdRow {i : Instr} (h : i.layer ≠ .hostFrame) :
    ∃ f, Transfer f ∧ ∀ s, exec i s = .next (whenOpen f s) := by
  cases i with
  | lcdSetDdramAddr a => exact ⟨_, .command (setDdramByte a), fun _ => rfl⟩
  | lcdSetCgramAddr a => exact ⟨_, .command (setCgramByte a), fun _ => rfl⟩
  | lcdFunctionSet => exact ⟨_, .command functionSetByte, fun _ => rfl⟩
  | lcdDisplayOff => exact ⟨_, .command displayOffByte, fun _ => rfl⟩
  | lcdClearDisplay => exact ⟨_, .command clearDisplayByte, fun _ => rfl⟩
  | lcdEntryMode => exact ⟨_, .command entryModeByte, fun _ => rfl⟩
  | lcdDisplayOn => exact ⟨_, .command displayOnByte, fun _ => rfl⟩
  | lcdForce8bit => exact ⟨_, .command (nibbleByte force8bitNibble), fun _ => rfl⟩
  | lcdSwitch4bit => exact ⟨_, .switch (nibbleByte switch4bitNibble), fun _ => rfl⟩
  | lcdData d => exact ⟨_, .data d, fun _ => rfl⟩
  | _ => exact absurd rfl h

/-! ## What the engine does not read -/

/-- Two states that agree on all the engine reads: on every field but `ERR` and the two sinks. Where `E` holds they
agree on `ERR` too, where `L` holds on the sinks. -/
structure Alike (E L : Prop) (s s' : State) : Prop where
  cfg : s'.cfg = s.cfg
  engState : s'.engState = s.engState
  initState : s'.initState = s.initState
  active : s'.active = s.active
  rs : s'.rs = s.rs
  dw : s'.dw = s.dw
  cached : s'.cached = s.cached
  opened : s'.opened = s.opened
  hostIn : s'.hostIn = s.hostIn
  results : s'.results = s.results
  oracle : s'.oracle = s.oracle
  drawn : s'.drawn = s.drawn
  log : s'.log = s.log
  err : E → s'.err = s.err
  lcd1 : L → s'.lcd1 = s.lcd1
  lcd2 : L → s'.lcd2 = s.lcd2

theorem sameButErr_iff (s s' : State) : SameButErr s s' ↔ Alike False True s s' := by
  constructor
  · intro h
    rw [← h]
    constructor <;> simp
  · intro h
    cases h
    cases s'
    simp_all

theorem sameButSinks_iff (s s' : State) : SameButSinks s s' ↔ Alike True False s s' := by
  constructor
  · intro h
    rw [← h]
    constructor <;> simp
  · intro h
    cases h
    cases s'
    simp_all

/-- A Port write by what it meets: an open Port, and the oracle's answer there (R51, R57, R110). -/
theorem pw_eq (m d : Byte) (s : State) :
    pw m d s =
      if s.opened then
        if nextAnswer s then
          noteResult true
            (commit (mergeByte m s.cached d) (record (.write (mergeByte m s.cached d) true) (takeAnswer s)))
        else noteResult false (record (.write (mergeByte m s.cached d) false) (takeAnswer s))
      else noteResult false s := by
  unfold pw maskedWrite
  by_cases ho : s.opened = true
  · by_cases ha : nextAnswer s = true <;> simp [ho, ha]
  · simp [ho]

section Alike
variable {E L : Prop} {s s' : State} (h : Alike E L s s')
include h

theorem Alike.nextAnswer_eq : nextAnswer s' = nextAnswer s := by
  simp only [nextAnswer, h.oracle, h.drawn]

theorem setRs_alike (v : Byte) : Alike E L (setRs v s) (setRs v s') := { h with rs := rfl }

theorem setDw_alike (b : Bool) : Alike E L (setDw b s) (setDw b s') := { h with dw := rfl }

theorem select_alike (c : Controller) : Alike E L (select c s) (select c s') := { h with active := rfl }

theorem setEngState_alike (e : EngState) : Alike E L (setEngState e s) (setEngState e s') := { h with engState := rfl }

theorem setInitState_alike (i : InitState) : Alike E L (setInitState i s) (setInitState i s') :=
  { h with initState := rfl }

theorem returnByte_alike (b : Byte) : Alike E L (returnByte b s) (returnByte b s') :=
  { h with results := congrArg (· ++ [b]) h.results }

theorem record_alike (e : Event) : Alike E L (record e s) (record e s') :=
  { h with log := congrArg (· ++ [e]) h.log }

theorem takeAnswer_alike : Alike E L (takeAnswer s) (takeAnswer s') :=
  { h with oracle := congrArg List.tail h.oracle, drawn := congrArg (· + 1) h.drawn }

theorem noteResult_alike (ok : Bool) : Alike E L (noteResult ok s) (noteResult ok s') :=
  { h with err := fun e => congrArg (· || !ok) (h.err e) }

theorem clearErr_alike : Alike E L (clearErr s) (clearErr s') := { h with err := fun _ => rfl }

/-- The sinks see a change of the port; nothing but the sinks depends on what they make of it (R74, R75). -/
theorem commit_alike (v : Byte) : Alike E L (commit v s) (commit v s') :=
  { h with
    cached := rfl
    lcd1 := fun l => by simp only [commit_lcd1, h.cfg, h.drawn, h.cached, h.lcd1 l]
    lcd2 := fun l => by simp only [commit_lcd2, h.cfg, h.drawn, h.cached, h.lcd2 l] }

theorem delayInit_alike : Alike E L (delayInit s) (delayInit s') := by
  unfold delayInit
  rw [h.cfg]
  exact record_alike h _

theorem openPort_alike : Alike E L (openPort s) (openPort s') :=
  { h with
    opened := rfl
    cached := congrArg Params.portInit h.cfg
    log := congrArg (· ++ [Event.opened]) h.log }

theorem closePort_alike : Alike E L (closePort s) (closePort s') := by
  unfold closePort
  rw [h.opened, h.drawn]
  split
  · exact { h with opened := rfl, cached := rfl, drawn := rfl, log := congrArg (· ++ [Event.closed]) h.log }
  · exact h

theorem pw_alike (m d : Byte) : Alike E L (pw m d s) (pw m d s') := by
  have hw (ok : Bool) : Alike E L (record (.write (mergeByte m s.cached d) ok) (takeAnswer s))
      (record (.write (mergeByte m s.cached d) ok) (takeAnswer s')) := record_alike (takeAnswer_alike h) _
  rw [pw_eq, pw_eq, h.opened, h.cached, h.nextAnswer_eq]
  split
  · split
    · exact noteResult_alike (commit_alike (hw true) _) true
    · exact noteResult_alike (hw false) false
  · exact noteResult_alike h false

theorem pwControl_alike (d : Byte) : Alike E L (pwControl d s) (pwControl d s') := by
  unfold pwControl
  rw [h.cfg, h.active]
  exact pw_alike h _ d

theorem strobe_alike (n : Nibble) : Alike E L (strobe n s) (strobe n s') := by
  unfold strobe
  rw [h.cfg, h.active, h.rs]
  exact pwControl_alike (pw_alike (pwControl_alike h _) _ _) _

theorem sendByte_alike (v : Byte) : Alike E L (sendByte v s) (sendByte v s') := by
  have hhigh := strobe_alike (pwControl_alike h s.rs) (highNibble v)
  unfold sendByte
  rw [h.dw, h.rs]
  split
  · exact strobe_alike hhigh (lowNibble v)
  · exact hhigh

theorem writeCommand_alike (c : Byte) : Alike E L (writeCommand c s) (writeCommand c s') := by
  unfold writeCommand
  rw [h.cfg]
  exact setRs_alike (sendByte_alike (setRs_alike h 0#8) c) _

theorem foldl_alike {α : Type} {f : State → α → State}
    (hf : ∀ (u u' : State) (a : α), Alike E L u u' → Alike E L (f u a) (f u' a)) (l : List α) :
    Alike E L (l.foldl f s) (l.foldl f s') := by
  induction l generalizing s s' with
  | nil => exact h
  | cons a rest ih => exact ih (hf s s' a h)

theorem writeAllData_alike (ds : List Byte) : Alike E L (writeAllData ds s) (writeAllData ds s') :=
  foldl_alike h (fun _ _ d hu => sendByte_alike hu d) ds

theorem whenReady_alike {f : State → State} (hf : Alike E L (f s) (f s')) :
    Alike E L (whenReady f s) (whenReady f s') := by
  unfold whenReady
  rw [h.engState]
  split
  · exact hf
  · exact h

theorem whenOpen_alike {f : State → State} (hf : Alike E L (f s) (f s')) :
    Alike E L (whenOpen f s) (whenOpen f s') := by
  unfold whenOpen
  rw [h.opened]
  split
  · exact hf
  · exact h

theorem Transfer.alike {f : State → State} (hf : Transfer f) : Alike E L (f s) (f s') := by
  cases hf with
  | command c => exact writeCommand_alike h c
  | switch c => exact setDw_alike (writeCommand_alike h c) true
  | data d => exact sendByte_alike h d

theorem printOp_alike (line : Byte) (text : List Byte) : Alike E L (printOp line text s) (printOp line text s') := by
  refine whenReady_alike h ?_
  unfold printNow
  rw [h.cfg]
  exact select_alike (writeAllData_alike (writeCommand_alike (select_alike h _) _) text) .one

theorem clearDisplayNow_alike : Alike E L (clearDisplayNow s) (clearDisplayNow s') := by
  have hone := writeCommand_alike h clearDisplayByte
  unfold clearDisplayNow
  rw [h.cfg]
  split
  · exact select_alike (writeCommand_alike (select_alike hone .two) _) .one
  · exact hone

theorem programCgram_alike (c : Controller) (a : BitVec 6) (rows : List Byte) :
    Alike E L (programCgram c a rows s) (programCgram c a rows s') :=
  writeAllData_alike (writeCommand_alike (select_alike h c) _) rows

theorem setCgramOp_alike (a : BitVec 6) (rows : List Byte) :
    Alike E L (setCgramOp a rows s) (setCgramOp a rows s') := by
  have hone := programCgram_alike h .one a rows
  refine whenReady_alike h (select_alike ?_ .one)
  rw [h.cfg]
  split
  · exact programCgram_alike hone .two a rows
  · exact hone

theorem initBargraphOp_alike : Alike E L (initBargraphOp s) (initBargraphOp s') :=
  foldl_alike h (fun _ _ k hu => setCgramOp_alike hu (slotAddress k) (glyph k)) _

theorem backlightNow_alike (level : Bool) : Alike E L (backlightNow level s) (backlightNow level s') := by
  cases hbl : s.cfg.pins.bl with
  | none => simpa only [backlightNow, hbl, h.cfg] using h
  | some pin =>
    rw [backlightNow_eq_pw hbl, backlightNow_eq_pw (h.cfg ▸ hbl)]
    exact pw_alike h _ _

/-- One command of an init run and the `INIT_STATE` it enters (R137). -/
theorem initCommand_alike (c : Byte) (i : InitState) :
    Alike E L (setInitState i (writeCommand c s)) (setInitState i (writeCommand c s')) :=
  setInitState_alike (writeCommand_alike h c) i

theorem initHandshake_alike : Alike E L (initHandshake s) (initHandshake s') := by
  have hwait := delayInit_alike (initCommand_alike h (nibbleByte force8bitNibble) .force8bit1)
  exact setDw_alike (initCommand_alike (initCommand_alike (initCommand_alike hwait _ _) _ _) _ _) true

theorem initModes_alike : Alike E L (initModes s) (initModes s') := by
  have hoff := initCommand_alike (initCommand_alike h functionSetByte .functionSet) displayOffByte .displayOff
  exact initCommand_alike (initCommand_alike (initCommand_alike hoff _ _) _ _) _ _

theorem initSequence_alike : Alike E L (initSequence s) (initSequence s') :=
  setInitState_alike (initModes_alike (initHandshake_alike (setDw_alike (setInitState_alike h _) _))) _

theorem initControllers_alike : Alike E L (initControllers s) (initControllers s') := by
  have hone := initSequence_alike h
  unfold initControllers
  rw [h.cfg]
  split
  · exact select_alike (initSequence_alike (select_alike hone .two)) .one
  · exact hone

theorem connectNow_alike : Alike E L (connectNow s) (connectNow s') := by
  have hopen := clearErr_alike (openPort_alike (setEngState_alike h .connecting))
  refine setEngState_alike (initControllers_alike ?_) .ready
  rw [hopen.cfg]
  exact setRs_alike (select_alike hopen .one) _

theorem disconnectNow_alike : Alike E L (disconnectNow s) (disconnectNow s') :=
  setDw_alike (setInitState_alike (setEngState_alike (closePort_alike h) _) _) _

theorem execConnect_alike :
    ∃ t t', execConnect s = .next t ∧ execConnect s' = .next t' ∧ Alike E L t t' := by
  refine ⟨_, _, rfl, rfl, ?_⟩
  rw [h.engState]
  split
  · exact connectNow_alike h
  · exact h

theorem execDisconnect_alike :
    ∃ t t', execDisconnect s = .next t ∧ execDisconnect s' = .next t' ∧ Alike E L t t' := by
  refine ⟨_, _, rfl, rfl, ?_⟩
  rw [h.engState]
  split
  · exact h
  · exact disconnectNow_alike h

/-- From states that are alike every instruction answers states that are alike. -/
theorem exec_alike (i : Instr) : ∃ t t', exec i s = .next t ∧ exec i s' = .next t' ∧ Alike E L t t' := by
  by_cases hl : i.layer = .hostFrame
  · cases i with
    | nop => exact ⟨_, _, rfl, rfl, h⟩
    | connect => exact execConnect_alike h
    | disconnect => exact execDisconnect_alike h
    | print line text => exact ⟨_, _, rfl, rfl, printOp_alike h line text⟩
    | clearLine line => exact ⟨_, _, rfl, rfl, h.cfg ▸ printOp_alike h line _⟩
    | clearDisplay => exact ⟨_, _, rfl, rfl, whenReady_alike h (clearDisplayNow_alike h)⟩
    | backlight enable => exact ⟨_, _, rfl, rfl, whenReady_alike h (backlightNow_alike h enable)⟩
    | setCgram address pattern => exact ⟨_, _, rfl, rfl, setCgramOp_alike h address pattern⟩
    | setCgramAuto pattern => exact ⟨_, _, rfl, rfl, returnByte_alike h _⟩
    | initBargraph => exact ⟨_, _, rfl, rfl, initBargraphOp_alike h⟩
    | hasBacklight => exact ⟨_, _, rfl, rfl, h.cfg ▸ returnByte_alike h _⟩
    | getWidth => exact ⟨_, _, rfl, rfl, h.cfg ▸ returnByte_alike h _⟩
    | getHeight => exact ⟨_, _, rfl, rfl, h.cfg ▸ returnByte_alike h _⟩
    | bargraph line value => exact ⟨_, _, rfl, rfl, h.cfg ▸ printOp_alike h line _⟩
    | reserved opcode => exact ⟨_, _, rfl, rfl, h⟩
    | _ => simp [Instr.layer] at hl
  · obtain ⟨f, hf, hx⟩ := exec_lcdRow hl
    exact ⟨_, _, hx s, hx s', whenOpen_alike h (Transfer.alike h hf)⟩

theorem Alike.of_exec {i : Instr} {t t' : State} (hx : exec i s = .next t) (hx' : exec i s' = .next t') :
    Alike E L t t' := by
  obtain ⟨u, u', hu, hu', hk⟩ := exec_alike h i
  rw [hu] at hx
  rw [hu'] at hx'
  exact Host.Outcome.next.inj hx ▸ Host.Outcome.next.inj hx' ▸ hk

end Alike

/-- Settles O54: no part of an instruction reads `ERR`, so states alike on all else stay alike on all else. -/
theorem errIsNeverRead : Obligations.ErrIsNeverRead := by
  intro i s s' t t' h hx hx'
  exact (sameButErr_iff t t').mpr (((sameButErr_iff s s').mp h).of_exec hx hx')

/-- Settles O55: the sinks see the port and nothing but the sinks sees them. -/
theorem controllersAreNeverRead : Obligations.ControllersAreNeverRead := by
  intro i s s' t t' h hx hx'
  exact (sameButSinks_iff t t').mpr (((sameButSinks_iff s s').mp h).of_exec hx hx')

/-! ## The sinks are not the engine's registers -/

@[simp] theorem lcdOf_setRs (c : Controller) (v : Byte) (s : State) : lcdOf c (setRs v s) = lcdOf c s := by
  cases c <;> rfl
@[simp] theorem lcdOf_setDw (c : Controller) (b : Bool) (s : State) : lcdOf c (setDw b s) = lcdOf c s := by
  cases c <;> rfl
@[simp] theorem lcdOf_select (c d : Controller) (s : State) : lcdOf c (select d s) = lcdOf c s := by
  cases c <;> rfl

/-! ## What an LCD row leaves alone -/

theorem whenOpen_of_opened {s : State} (h : s.opened = true) (f : State → State) : whenOpen f s = f s := if_pos h

theorem whenOpen_of_closed {s : State} (h : s.opened = false) (f : State → State) : whenOpen f s = s :=
  if_neg (by simp [h])

theorem Transfer.pins {f : State → State} (hf : Transfer f) (s : State) :
    (f s).cached &&& keptPins s.cfg s.active = s.cached &&& keptPins s.cfg s.active := by
  cases hf with
  | command c => exact writeCommand_pins c s
  | switch c => exact writeCommand_pins c s
  | data d => exact sendByte_pins d s

theorem Transfer.other {f : State → State} (hf : Transfer f) {s : State} (h : wellFormedParams s.cfg = true) :
    lcdOf (otherController s.active) (f s) = lcdOf (otherController s.active) s := by
  cases hf with
  | command c => exact writeCommand_other h c
  | switch c => rw [lcdOf_setDw, writeCommand_other h c]
  | data d => exact sendByte_other h d

/-- Settles O21: a row is a transfer that waits for an open Port. -/
theorem lcdTransfersNeedAnOpenPort : Obligations.LcdTransfersNeedAnOpenPort := by
  intro i s hi ho
  obtain ⟨f, -, hx⟩ := exec_lcdRow hi
  rw [hx, whenOpen_of_closed ho]

/-- Settles O22: the pins and the other sink stay through every transfer, whatever `ERR` says. -/
theorem lcdTransfersKeepOtherPinsAndTheOtherController :
    Obligations.LcdTransfersKeepOtherPinsAndTheOtherController := by
  intro i s t hi hwf hx
  obtain ⟨f, hf, hrow⟩ := exec_lcdRow hi
  have ht : whenOpen f s = t := Host.Outcome.next.inj ((hrow s).symm.trans hx)
  subst ht
  unfold whenOpen
  split
  · exact ⟨hf.pins s, fun _ => hf.other hwf⟩
  · exact ⟨rfl, fun _ => rfl⟩

/-! ## Closing the Port -/

@[simp] theorem closePort_err (s : State) : (closePort s).err = s.err := by unfold closePort; split <;> rfl
@[simp] theorem closePort_results (s : State) : (closePort s).results = s.results := by
  unfold closePort; split <;> rfl
@[simp] theorem closePort_lcd1 (s : State) : (closePort s).lcd1 = s.lcd1 := by unfold closePort; split <;> rfl
@[simp] theorem closePort_lcd2 (s : State) : (closePort s).lcd2 = s.lcd2 := by unfold closePort; split <;> rfl

theorem closePort_of_closed {s : State} (h : s.opened = false) : closePort s = s := if_neg (by simp [h])

theorem closePort_log (s : State) : (closePort s).log = s.log ++ (if s.opened then [.closed] else []) := by
  unfold closePort
  split
  · rfl
  · exact (List.append_nil _).symm

@[simp] theorem closePort_attempts (s : State) : attempts (closePort s).log = attempts s.log := by
  rw [closePort_log]
  split <;> simp [attempts, isWrite]

/-- Settles O19: the close event is no write, and a closed Port is left as it is. -/
theorem closeIsIdempotent : Obligations.CloseIsIdempotent := by
  intro s
  exact ⟨closePort_opened s, closePort_of_closed (closePort_opened s), closePort_attempts s,
    fun ho => by rw [closePort_log, if_pos ho], closePort_of_closed⟩

/-! ## Reset -/

/-- Settles O11: each value is the field of the reset state. -/
theorem resetLeavesTheSpecsValues : Obligations.ResetLeavesTheSpecsValues := by
  intro p
  exact ⟨rfl, rfl, rfl, rfl, rfl, rfl, rfl, rfl, rfl⟩

/-- A reset engine is between operations, beside controllers in any state (R36, R37, R221). -/
theorem resetBeside_betweenOps {p : Params} (h : wellFormedParams p = true) (l1 l2 : Lcd) :
    BetweenOps (State.resetBeside p l1 l2) := by
  simp [BetweenOps, State.resetBeside, h, bitRs, pinBit]

theorem resetWith_invariants {p : Params} (h : wellFormedParams p = true) :
    BetweenOps (State.resetWith p) ∧ MemoriesWf (State.resetWith p) ∧ InStep (State.resetWith p) := by
  have hmem : LcdWf Lcd.powerOn := ⟨Memory.wf_nil .ddram, Memory.wf_nil .cgram⟩
  refine ⟨resetBeside_betweenOps h _ _, ⟨hmem.1, hmem.2, hmem⟩, fun hready => ?_⟩
  exact absurd hready (by simp [State.resetWith, State.resetBeside])

/-- Settles O12: reset is not READY, and a controller at power-on has nothing listed. -/
theorem resetMeetsTheInvariants : Obligations.ResetMeetsTheInvariants :=
  ⟨fun _ h => resetWith_invariants h, resetWith_invariants (by decide)⟩

theorem resetEngine_betweenOps {s : State} (h : wellFormedParams s.cfg = true) : BetweenOps (resetEngine s) :=
  resetBeside_betweenOps h s.lcd1 s.lcd2

/-- Settles O59: between operations a disconnected engine has reset's registers already; any other gets them from
DISCONNECT. -/
theorem resetAndDisconnectAgreeButForErr : Obligations.ResetAndDisconnectAgreeButForErr := by
  intro s h
  have hreset := resetEngine_betweenOps h.1
  obtain ⟨hwf, hact, hrs, -, hdisc, -⟩ := h
  by_cases he : s.engState = .disconnected
  · obtain ⟨hdw, hinit, hclosed⟩ := hdisc he
    refine ⟨s, by simp [exec, execDisconnect, he], ?_⟩
    simpa [he, hdw, hinit, hclosed, hact, hrs] using hreset
  · refine ⟨disconnectNow s, by simp [exec, execDisconnect, he], ?_⟩
    simpa [disconnectNow, hact, hrs] using hreset

/-! ## `ERR` is sticky (R30) -/

theorem Move.err_sticky {s t : State} (m : Move s t) (h : s.err = true) : t.err = true := by
  cases m with
  | command c => exact writeCommand_err_sticky h c
  | data d => exact sendByte_err_sticky h d
  | select c => exact h
  | backlight hbl level => exact pw_err_sticky h _ _
  | fourBit ho => exact h
  | result b => exact h

theorem Operation.err_sticky {s t : State} (o : Operation s t) (h : s.err = true) : t.err = true := by
  obtain ⟨hmoves, -⟩ := o
  induction hmoves with
  | refl => exact h
  | tail _ m ih => exact m.err_sticky ih

/-- Settles O53: no move of an operation clears `ERR` and DISCONNECT keeps it. -/
theorem onlyConnectClearsErr : Obligations.OnlyConnectClearsErr := by
  intro i s t hx hs ht
  cases executed_of_exec hx with
  | operation o => exact absurd (o.err_sticky hs) (by simp [ht])
  | connect hd => exact ⟨rfl, hd⟩
  | disconnect _ => exact absurd ((closePort_err s).trans hs) (Bool.eq_false_iff.mp ht)

/-! ## Bursts: an address command and data bytes on one controller -/

/-- What PRINT and SET_CGRAM make on a controller: select it, then a command byte, then data bytes (R151, R154). -/
def burst (c : Controller) (b : Byte) (data : List Byte) (s : State) : State :=
  writeAllData data (writeCommand b (select c s))

theorem printNow_eq_burst (line : Byte) (text : List Byte) (s : State) :
    printNow line text s =
      select .one (burst (lineAddr s.cfg line).1 (setDdramByte (lineAddr s.cfg line).2) text s) := rfl

theorem programCgram_eq_burst (c : Controller) (a : BitVec 6) (rows : List Byte) (s : State) :
    programCgram c a rows s = burst c (setCgramByte a) rows s := rfl

/-- What a display operation of `n` attempts does for every oracle: a Port run that leaves `RS` at `BIT_RS` and keeps
the background pins (R36, R59, R118). -/
structure DisplayRun (n : Nat) (s t : State) : Prop where
  run : PortRun n s t
  rs : t.rs = bitRs s.cfg
  pins : t.cached &&& backgroundPins s.cfg = s.cached &&& backgroundPins s.cfg

theorem DisplayRun.cfg {n : Nat} {s t : State} (h : DisplayRun n s t) : t.cfg = s.cfg := h.run.kept.1

theorem DisplayRun.trans {n m : Nat} {s t u : State} (h : DisplayRun n s t) (k : DisplayRun m t u) :
    DisplayRun (n + m) s u :=
  ⟨h.run.trans k.run, h.cfg ▸ k.rs, (h.cfg ▸ k.pins).trans h.pins⟩

theorem DisplayRun.select {n : Nat} {s t : State} (h : DisplayRun n s t) (c : Controller) :
    DisplayRun n s (select c t) :=
  ⟨h.run.trans (select_run c t), h.rs, h.pins⟩

/-- The pins that a transfer to one controller keeps include the background pins. -/
theorem backgroundPins_of_keptPins {p : Params} {c : Controller} {v w : Byte}
    (h : v &&& keptPins p c = w &&& keptPins p c) : v &&& backgroundPins p = w &&& backgroundPins p := by
  have hsub : keptPins p c &&& backgroundPins p = backgroundPins p := by
    cases c with
    | one => rw [backgroundPins, ← BitVec.and_assoc, BitVec.and_self]
    | two => rw [backgroundPins, BitVec.and_comm (keptPins p .one), ← BitVec.and_assoc, BitVec.and_self]
  rw [← hsub, ← BitVec.and_assoc, h, BitVec.and_assoc]

theorem burst_displayRun {s : State} (ho : s.opened = true) (hd : s.dw = true) (c : Controller) (b : Byte)
    (data : List Byte) : DisplayRun (7 * (1 + data.length)) s (burst c b data s) := by
  have hcommand := (select_run c s).trans (writeCommand_run (s := select c s) (by simpa using ho) b)
  have hdata := writeAllData_run (s := writeCommand b (select c s)) (by simpa using ho) data
  have hpins := writeAllData_pins data (writeCommand b (select c s))
  simp only [writeCommand_cfg, writeCommand_active] at hpins
  refine ⟨(hcommand.trans hdata).cast ?_, by simp [burst], backgroundPins_of_keptPins (c := c) ?_⟩
  · simp [hd, Nat.mul_add]
  · exact hpins.trans (writeCommand_pins b (select c s))

theorem burst_other {s : State} (h : wellFormedParams s.cfg = true) (c : Controller) (b : Byte) (data : List Byte) :
    lcdOf (otherController c) (burst c b data s) = lcdOf (otherController c) s := by
  have hcommand := writeCommand_other (s := select c s) h b
  have hdata := writeAllData_other (s := writeCommand b (select c s)) (by simpa using h) data
  simp only [writeCommand_active, select_active, lcdOf_select] at hcommand hdata
  exact hdata.trans hcommand

theorem whenReady_of_ready {s : State} (h : s.engState = .ready) (f : State → State) : whenReady f s = f s := if_pos h

/-- What READY between operations says of the registers a transfer depends on. -/
theorem ReadyBetweenOps.open_dw {s : State} (h : ReadyBetweenOps s) : s.opened = true ∧ s.dw = true := by
  obtain ⟨⟨-, -, -, hready, -, -⟩, he⟩ := h
  obtain ⟨hdw, -, hopen⟩ := hready he
  exact ⟨hopen, hdw⟩

/-- Settles O38: PRINT is one burst on the line's controller. -/
theorem printCompletes : Obligations.PrintCompletes := by
  intro line text s h
  obtain ⟨hopen, hdw⟩ := h.open_dw
  obtain ⟨⟨hwf, -⟩, he⟩ := h
  have hx : exec (.print line text) s = .next (printNow line text s) :=
    congrArg Host.Outcome.next (whenReady_of_ready he _)
  rw [printNow_eq_burst] at hx
  have hother := burst_other hwf (lineAddr s.cfg line).1 (setDdramByte (lineAddr s.cfg line).2) text
  obtain ⟨⟨hkept, evs, hlog, hn, hw, herr⟩, hrs, hpins⟩ := (burst_displayRun hopen hdw (lineAddr s.cfg line).1
    (setDdramByte (lineAddr s.cfg line).2) text).select .one
  exact ⟨_, evs, hx, hlog, hw, hn, herr, rfl, hrs, hkept, hpins, fun _ => by rw [lcdOf_select, hother]⟩

theorem setCgramNow_displayRun {s : State} (ho : s.opened = true) (hd : s.dw = true) (a : BitVec 6)
    (rows : List Byte) :
    DisplayRun (7 * (1 + rows.length) * (if dual s.cfg then 2 else 1)) s (setCgramNow a rows s) := by
  have hone := burst_displayRun ho hd .one (setCgramByte a) rows
  obtain ⟨-, -, -, hdw, hopen, -⟩ := hone.run.kept
  unfold setCgramNow
  split
  · rw [Nat.mul_two]
    exact (hone.trans (burst_displayRun (hopen.trans ho) (hdw.trans hd) .two (setCgramByte a) rows)).select .one
  · rw [Nat.mul_one]
    exact hone.select .one

theorem setCgramNow_single {s : State} (hd : dual s.cfg = false) (a : BitVec 6) (rows : List Byte) :
    setCgramNow a rows s = select .one (burst .one (setCgramByte a) rows s) := by
  simp [setCgramNow, programCgram_eq_burst, hd]

theorem setCgramNow_lcd2 {s : State} (h : wellFormedParams s.cfg = true) (hd : dual s.cfg = false) (a : BitVec 6)
    (rows : List Byte) : (setCgramNow a rows s).lcd2 = s.lcd2 := by
  rw [setCgramNow_single hd]
  exact burst_other h .one (setCgramByte a) rows

/-- Settles O43: SET_CGRAM is one burst of 63 writes on each controller of the geometry. -/
theorem setCgramCompletes : Obligations.SetCgramCompletes := by
  intro a rows s hrows h
  obtain ⟨hopen, hdw⟩ := h.open_dw
  obtain ⟨⟨hwf, -⟩, he⟩ := h
  have hx : exec (.setCgram a rows) s = .next (setCgramNow a rows s) :=
    congrArg Host.Outcome.next (whenReady_of_ready he _)
  obtain ⟨⟨hkept, evs, hlog, hn, hw, herr⟩, hrs, hpins⟩ := setCgramNow_displayRun hopen hdw a rows
  have hcount : attempts evs = if dual s.cfg then 126 else 63 := by
    rw [hn, hrows]
    split <;> rfl
  exact ⟨_, evs, hx, hlog, hw, hcount, herr, rfl, hrs, hkept, hpins, fun hd _ => setCgramNow_lcd2 hwf hd a rows⟩

/-! ## The forced handshake -/

/-- A latch with RS low never reaches the CGRAM: no command writes it (R75). -/
theorem lcdLatch_command_cgram (u : Nibble) (f : AddrCounter) (n : Nibble) (l : Lcd) :
    (lcdLatch u f false n l).cgram = l.cgram := by
  have hcommand (hi lo : Nibble) (l : Lcd) : (lcdCommand f hi lo l).cgram = l.cgram := by
    unfold lcdCommand
    repeat' split
    all_goals rfl
  unfold lcdLatch lcdReceive
  split
  · split
    · rfl
    · exact hcommand _ _ _
  · exact hcommand _ _ _

/-- At most `k` nibbles FORCE_8BIT more and the controller is in 8-bit mode: it is in 8-bit mode already, or has a
FORCE_8BIT nibble as its high nibble waiting, or is at a byte boundary, or has any nibble waiting. -/
def ForcedWithin (k : Nat) (l : Lcd) : Prop :=
  match k with
  | 0 => l.fourBit = false
  | 1 => l.fourBit = false ∨ l.pending = some force8bitNibble
  | 2 => l.fourBit = false ∨ l.pending = some force8bitNibble ∨ l.pending = none
  | _ => True

/-- In 8-bit mode a FORCE_8BIT nibble is a function set that stays there (R88). -/
theorem lcdLatch_force_eightBit {l : Lcd} (h : l.fourBit = false) (u : Nibble) (f : AddrCounter) :
    (lcdLatch u f false force8bitNibble l).fourBit = false := by
  unfold lcdLatch
  rw [h]
  rfl

/-- As the low nibble behind itself FORCE_8BIT is the function set to 8-bit mode (R75, R87). -/
theorem lcdLatch_force_waiting {l : Lcd} (h : l.pending = some force8bitNibble) (u : Nibble) (f : AddrCounter) :
    (lcdLatch u f false force8bitNibble l).fourBit = false := by
  unfold lcdLatch
  rw [h]
  split <;> rfl

theorem lcdLatch_boundary {l : Lcd} (h4 : l.fourBit = true) (h : l.pending = none) (u : Nibble) (f : AddrCounter)
    (rs : Bool) (n : Nibble) : (lcdLatch u f rs n l).pending = some n := by
  unfold lcdLatch
  rw [h4, h]
  rfl

/-- A low nibble completes its byte: nothing is waiting after it. -/
theorem lcdLatch_waiting_pending {l : Lcd} {hi : Nibble} (h4 : l.fourBit = true) (h : l.pending = some hi) (u : Nibble)
    (f : AddrCounter) (n : Nibble) : (lcdLatch u f false n l).pending = none := by
  unfold lcdLatch lcdReceive lcdCommand
  rw [h4, h]
  simp only [if_true, Bool.false_eq_true, if_false]
  repeat' split
  all_goals rfl

theorem ForcedWithin.force {k : Nat} {l : Lcd} (h : ForcedWithin (k + 1) l) (u : Nibble) (f : AddrCounter) :
    ForcedWithin k (lcdLatch u f false force8bitNibble l) := by
  match k with
  | 0 =>
    obtain h8 | hw := h
    · exact lcdLatch_force_eightBit h8 u f
    · exact lcdLatch_force_waiting hw u f
  | 1 =>
    obtain h8 | hw | hb := h
    · exact .inl (lcdLatch_force_eightBit h8 u f)
    · exact .inl (lcdLatch_force_waiting hw u f)
    · cases h4 : l.fourBit with
      | false => exact .inl (lcdLatch_force_eightBit h4 u f)
      | true => exact .inr (lcdLatch_boundary h4 hb u f false _)
  | 2 =>
    cases h4 : l.fourBit with
    | false => exact .inl (lcdLatch_force_eightBit h4 u f)
    | true =>
      cases hp : l.pending with
      | none => exact .inr (.inl (lcdLatch_boundary h4 hp u f false _))
      | some hi => exact .inr (.inr (lcdLatch_waiting_pending h4 hp u f _))
  | _ + 3 => trivial

/-- In 8-bit mode a SWITCH_4BIT nibble is the function set to 4-bit mode, at a byte boundary (R88). -/
theorem lcdLatch_switch {l : Lcd} (h : l.fourBit = false) (u : Nibble) (f : AddrCounter) :
    (lcdLatch u f false switch4bitNibble l).fourBit = true ∧
    (lcdLatch u f false switch4bitNibble l).pending = none := by
  unfold lcdLatch
  rw [h]
  exact ⟨rfl, rfl⟩

/-- A nibble transfer (`DW` false, RS low) when no write fails: the active controller latches that nibble, after a stray
one if its Enable was high, and Enable is low again (R112, R226). -/
theorem writeCommand_nibble_clean {s : State} {e : Nat} (h : TransferPins s.cfg s.active e) (hd : s.dw = false)
    {c : Byte} (hc : (writeCommand c s).err = false) :
    s.err = false ∧ (writeCommand c s).cached &&& bitE s.cfg s.active = 0 ∧
    ∃ u f l, lcdOf s.active (writeCommand c s) = lcdLatch u f false (highNibble c) l ∧
      l.cgram = (lcdOf s.active s).cgram ∧ (s.cached &&& bitE s.cfg s.active = 0 → l = lcdOf s.active s) := by
  have hsend : writeCommand c s = setRs (bitRs s.cfg) (strobe (highNibble c) (pwControl 0#8 (setRs 0#8 s))) := by
    simp [writeCommand, sendByte, hd]
  rw [hsend] at hc ⊢
  obtain ⟨hclean, -, hlow, -, u, f, hlatch⟩ :=
    strobe_clean (s := pwControl 0#8 (setRs 0#8 s)) (r := false) (by simpa using h) (by simp) hc
  obtain ⟨herr, -, -, hkeep, u', f', hstray⟩ := step1_clean (s := setRs 0#8 s) (r := false) h rfl hclean
  simp only [pwControl_cfg, pwControl_active, setRs_cfg, setRs_active, lcdOf_setRs, setRs_rs]
    at hlow hlatch hkeep hstray
  have hdirect (h0 : s.cached &&& bitE s.cfg s.active = 0) := hkeep ((enable_low_iff h _).mp h0)
  refine ⟨herr, (enable_low_iff h _).mpr hlow.enable, u, f, _, hlatch, ?_, hdirect⟩
  obtain hsame | ⟨n, hn⟩ := hstray
  · rw [hsame]
  · rw [hn, lcdLatch_command_cgram]

/-- In the middle of a handshake: the active controller is at most `k` nibbles FORCE_8BIT from 8-bit mode and its CGRAM
is `g`; its Enable may be high only where its mode and phase are still unknown. -/
structure Forcing (k : Nat) (g : Memory) (s : State) : Prop where
  within : ForcedWithin k (lcdOf s.active s)
  low : k < 3 → s.cached &&& bitE s.cfg s.active = 0
  cgram : (lcdOf s.active s).cgram = g

/-- One transfer of the nibble FORCE_8BIT (R88). -/
abbrev forceNibble (s : State) : State := writeCommand (nibbleByte force8bitNibble) s

theorem Forcing.force {k : Nat} {g : Memory} {s : State} {e : Nat} (h : Forcing (k + 1) g s) (hk : k < 3)
    (hp : TransferPins s.cfg s.active e) (hd : s.dw = false) (hc : (forceNibble s).err = false) :
    Forcing k g (forceNibble s) := by
  obtain ⟨-, hlow, u, f, l, hlatch, hg, hl⟩ := writeCommand_nibble_clean hp hd hc
  have hwithin : ForcedWithin (k + 1) l := by
    obtain rfl | hk2 : k = 2 ∨ k + 1 < 3 := by omega
    · trivial
    · exact hl (h.low hk2) ▸ h.within
  refine ⟨?_, fun _ => by simpa using hlow, ?_⟩
  · rw [writeCommand_active, hlatch]
    exact hwithin.force u f
  · rw [writeCommand_active, hlatch, lcdLatch_command_cgram, hg, h.cgram]

/-- Three clean FORCE_8BIT nibbles reach 8-bit mode from anywhere (R38, R132). -/
theorem forcing_three {s : State} {e : Nat} (hp : TransferPins s.cfg s.active e) (hd : s.dw = false)
    (hc : (forceNibble (forceNibble (forceNibble s))).err = false) :
    Forcing 0 (lcdOf s.active s).cgram (forceNibble (forceNibble (forceNibble s))) := by
  have hp1 : TransferPins (forceNibble s).cfg (forceNibble s).active e := by simpa using hp
  have hp2 : TransferPins (forceNibble (forceNibble s)).cfg (forceNibble (forceNibble s)).active e := by simpa using hp
  obtain ⟨hc2, -⟩ := writeCommand_nibble_clean hp2 (by simpa using hd) hc
  obtain ⟨hc1, -⟩ := writeCommand_nibble_clean hp1 (by simpa using hd) hc2
  have hany : Forcing 3 (lcdOf s.active s).cgram s := ⟨trivial, fun h => absurd h (by decide), rfl⟩
  exact ((hany.force (by decide) hp hd hc1).force (by decide) hp1 (by simpa using hd) hc2).force (by decide) hp2
    (by simpa using hd) hc

theorem enablePin_of_bitE {p : Params} {c : Controller} (h : bitE p c ≠ 0) : ∃ e, enablePin p.pins c = some e := by
  rw [bitE_eq] at h
  cases he : enablePin p.pins c with
  | none => exact absurd (by rw [he]; rfl) h
  | some e => exact ⟨e, rfl⟩

/-- Settles O28: three FORCE_8BIT nibbles force 8-bit mode whatever precedes them, and SWITCH_4BIT is a whole byte
there. -/
theorem handshakeResynchronisesAnyController : Obligations.HandshakeResynchronisesAnyController := by
  intro s hwf ho hd hE
  obtain ⟨e, he⟩ := enablePin_of_bitE hE
  have hp := transferPins_of_wellFormed hwf he
  have hforce {t : State} (h : t.opened = true) : exec .lcdForce8bit t = .next (forceNibble t) :=
    congrArg Host.Outcome.next (whenOpen_of_opened h _)
  have hswitch {t : State} (h : t.opened = true) :
      exec .lcdSwitch4bit t = .next (setDw true (writeCommand (nibbleByte switch4bitNibble) t)) :=
    congrArg Host.Outcome.next (whenOpen_of_opened h _)
  refine ⟨_, _, _, _, hforce ho, hforce (by simpa using ho), hforce (by simpa using ho), hswitch (by simpa using ho),
    rfl, fun hc => ?_⟩
  obtain ⟨hc3, -, u, f, l, hlatch, hg, hl⟩ :=
    writeCommand_nibble_clean (e := e) (by simpa using hp) (by simpa using hd) hc
  obtain ⟨hwithin, hlow, hcgram⟩ := forcing_three hp hd hc3
  rw [hl (hlow (by decide))] at hlatch
  obtain ⟨h4, hpend⟩ := lcdLatch_switch hwithin u f
  simp only [writeCommand_active] at hlatch h4 hpend hcgram
  rw [lcdOf_setDw, hlatch]
  exact ⟨h4, hpend, (lcdLatch_command_cgram _ _ _ _).trans hcgram⟩

/-! ## Single geometry (R50) -/

/-- Single geometry with controller 1 selected. -/
structure OnControllerOne (s : State) : Prop where
  wellFormed : wellFormedParams s.cfg = true
  single : dual s.cfg = false
  active : s.active = .one

/-- From single geometry with controller 1 selected, back there, and controller 2 has seen nothing. -/
def SparesTwo (s t : State) : Prop := OnControllerOne s → OnControllerOne t ∧ t.lcd2 = s.lcd2

theorem SparesTwo.of_same {s t : State} (hcfg : t.cfg = s.cfg) (hact : s.active = .one → t.active = .one)
    (hlcd : t.lcd2 = s.lcd2) : SparesTwo s t :=
  fun ⟨hwf, hd, ha⟩ => ⟨⟨hcfg ▸ hwf, hcfg ▸ hd, hact ha⟩, hlcd⟩

theorem SparesTwo.refl (s : State) : SparesTwo s s := .of_same rfl id rfl

theorem SparesTwo.of_dual {s : State} (h : dual s.cfg = true) (t : State) : SparesTwo s t :=
  fun hs => absurd h (by simp [hs.single])

theorem SparesTwo.trans {s t u : State} (h : SparesTwo s t) (k : SparesTwo t u) : SparesTwo s u := by
  intro hs
  obtain ⟨ht, htwo⟩ := h hs
  obtain ⟨hu, htwo'⟩ := k ht
  exact ⟨hu, htwo'.trans htwo⟩

theorem sendByte_sparesTwo (v : Byte) (s : State) : SparesTwo s (sendByte v s) := by
  intro hs
  have hother := sendByte_other hs.wellFormed v
  rw [hs.active] at hother
  exact SparesTwo.of_same (by simp) (by simp) hother hs

theorem writeCommand_sparesTwo (c : Byte) (s : State) : SparesTwo s (writeCommand c s) := by
  have hlow : SparesTwo s (setRs 0#8 s) := .of_same rfl id rfl
  have hrestore : SparesTwo (sendByte c (setRs 0#8 s)) (writeCommand c s) := .of_same rfl id rfl
  exact (hlow.trans (sendByte_sparesTwo c _)).trans hrestore

theorem SparesTwo.foldl {α : Type} {f : State → α → State} (h : ∀ s a, SparesTwo s (f s a)) (l : List α)
    (s : State) : SparesTwo s (l.foldl f s) := by
  induction l generalizing s with
  | nil => exact .refl s
  | cons a rest ih => exact (h s a).trans (ih (f s a))

theorem writeAllData_sparesTwo (ds : List Byte) (s : State) : SparesTwo s (writeAllData ds s) :=
  .foldl (fun s d => sendByte_sparesTwo d s) ds s

/-- A selection that stays on controller 1, or that is made on dual geometry. -/
theorem select_sparesTwo {c : Controller} {s : State} (h : c = .one ∨ dual s.cfg = true) :
    SparesTwo s (select c s) := by
  obtain rfl | hd := h
  · exact .of_same rfl (fun _ => rfl) rfl
  · exact .of_dual hd _

/-- A burst and the return to controller 1. -/
theorem burst_sparesTwo {c : Controller} {s : State} (h : c = .one ∨ dual s.cfg = true) (b : Byte)
    (data : List Byte) : SparesTwo s (select .one (burst c b data s)) :=
  (((select_sparesTwo h).trans (writeCommand_sparesTwo b _)).trans (writeAllData_sparesTwo data _)).trans
    (select_sparesTwo (.inl rfl))

/-- Every line's controller is 1, or the geometry is dual (R68). -/
theorem lineAddr_controller (p : Params) (line : Byte) : (lineAddr p line).1 = .one ∨ dual p = true := by
  cases hd : dual p with
  | true => exact .inr rfl
  | false =>
    left
    have h34 : controller34 p = .one := by simp [controller34, hd]
    unfold lineAddr
    rw [h34]
    repeat' split
    all_goals rfl

theorem SparesTwo.whenReady {f : State → State} {s : State} (h : SparesTwo s (f s)) :
    SparesTwo s (Machine.whenReady f s) := by
  unfold Machine.whenReady
  split
  · exact h
  · exact .refl s

theorem printOp_sparesTwo (line : Byte) (text : List Byte) (s : State) : SparesTwo s (printOp line text s) :=
  .whenReady (burst_sparesTwo (lineAddr_controller s.cfg line) _ text)

theorem clearDisplayNow_sparesTwo (s : State) : SparesTwo s (clearDisplayNow s) := by
  have hone := writeCommand_sparesTwo clearDisplayByte s
  unfold clearDisplayNow
  split
  next hd => exact .of_dual hd _
  next => exact hone

theorem setCgramNow_sparesTwo (a : BitVec 6) (rows : List Byte) (s : State) : SparesTwo s (setCgramNow a rows s) := by
  cases hd : dual s.cfg with
  | true => exact .of_dual hd _
  | false =>
    rw [setCgramNow_single hd]
    exact burst_sparesTwo (.inl rfl) _ rows

theorem initBargraphOp_sparesTwo (s : State) : SparesTwo s (initBargraphOp s) :=
  .foldl (fun s k => .whenReady (setCgramNow_sparesTwo (slotAddress k) (glyph k) s)) _ s

/-- The backlight pin is no controller's Enable (R7). -/
theorem backlightMask_keeps_enable {p : Params} (h : wellFormedParams p = true) {pin : Nat} (hbl : p.pins.bl = some pin)
    (c : Controller) : ~~~(pinBit pin) &&& bitE p c = bitE p c := by
  rw [bitE_eq]
  cases he : enablePin p.pins c with
  | none => simp [optionalBit]
  | some e =>
    have hlt := (transferPins_of_wellFormed h he).e_lt
    have hne : e ≠ pin := by
      have hnd := (pinsOk_of_wellFormed h).distinct
      simp only [presentPins, hbl, Option.toList_some, List.nodup_append (l₂ := [pin])] at hnd
      obtain ⟨-, -, hdisj⟩ := hnd
      refine hdisj e ?_ pin (by simp)
      cases c <;> simp_all [enablePin]
    exact and_pinBit_eq (by simp [hlt, hne])

theorem backlightNow_sparesTwo (level : Bool) (s : State) : SparesTwo s (backlightNow level s) := by
  cases hbl : s.cfg.pins.bl with
  | none => simpa only [backlightNow, hbl] using SparesTwo.refl s
  | some pin =>
    rw [backlightNow_eq_pw hbl]
    intro hs
    have htwo := pw_lcdOf (backlightMask_keeps_enable hs.wellFormed hbl .two) (if level then pinBit pin else 0#8)
    exact SparesTwo.of_same (by simp) (by simp) htwo hs

theorem Transfer.sparesTwo {f : State → State} (hf : Transfer f) (s : State) : SparesTwo s (f s) := by
  cases hf with
  | command c => exact writeCommand_sparesTwo c s
  | switch c => exact (writeCommand_sparesTwo c s).trans (.of_same rfl id rfl)
  | data d => exact sendByte_sparesTwo d s

theorem whenOpen_sparesTwo {f : State → State} (hf : Transfer f) (s : State) : SparesTwo s (whenOpen f s) := by
  unfold whenOpen
  split
  · exact hf.sparesTwo s
  · exact .refl s

theorem disconnectNow_sparesTwo (s : State) : SparesTwo s (disconnectNow s) :=
  .of_same (closePort_cfg s) (closePort_active s).trans (closePort_lcd2 s)

/-! ## The trace of CONNECT -/

/-- A part of an init run that adds `evs` to the trace, whatever the oracle answers: the parameters, `OPEN`, the host's
channels and the background pins are kept, `ERR` is set exactly when a write of `evs` failed, and on single geometry
controller 2 sees nothing. -/
structure Traced (evs : List Event) (s t : State) : Prop where
  cfg : t.cfg = s.cfg
  opened : t.opened = s.opened
  hostIn : t.hostIn = s.hostIn
  results : t.results = s.results
  pins : t.cached &&& backgroundPins s.cfg = s.cached &&& backgroundPins s.cfg
  log : t.log = s.log ++ evs
  err : t.err = (s.err || anyFailed evs)
  spares : SparesTwo s t

theorem Traced.trans {e f : List Event} {s t u : State} (h : Traced e s t) (k : Traced f t u) :
    Traced (e ++ f) s u where
  cfg := k.cfg.trans h.cfg
  opened := k.opened.trans h.opened
  hostIn := k.hostIn.trans h.hostIn
  results := k.results.trans h.results
  pins := (h.cfg ▸ k.pins).trans h.pins
  log := by rw [k.log, h.log, List.append_assoc]
  err := by rw [k.err, h.err, anyFailed, anyFailed, anyFailed, List.any_append, Bool.or_assoc]
  spares := h.spares.trans k.spares

theorem Traced.refl (s : State) : Traced [] s s :=
  ⟨rfl, rfl, rfl, rfl, rfl, (List.append_nil _).symm, (Bool.or_false _).symm, .refl s⟩

theorem setInitState_traced (i : InitState) (s : State) : Traced [] s (setInitState i s) :=
  { Traced.refl s with spares := .of_same rfl id rfl }

theorem setDw_traced (b : Bool) (s : State) : Traced [] s (setDw b s) :=
  { Traced.refl s with spares := .of_same rfl id rfl }

theorem select_traced {c : Controller} {s : State} (h : c = .one ∨ dual s.cfg = true) : Traced [] s (select c s) :=
  { Traced.refl s with spares := select_sparesTwo h }

theorem delayInit_traced (s : State) : Traced [.delay s.cfg.tInit] s (delayInit s) :=
  { Traced.refl s with log := rfl, spares := .of_same rfl id rfl }

/-- `n` attempted writes and nothing else. -/
def WriteRun (n : Nat) (evs : List Event) : Prop := evs.length = n ∧ ∀ e ∈ evs, isWrite e = true

theorem WriteRun.append {n m : Nat} {e f : List Event} (h : WriteRun n e) (k : WriteRun m f) :
    WriteRun (n + m) (e ++ f) := by
  refine ⟨by rw [List.length_append, h.1, k.1], fun x hx => ?_⟩
  obtain hx | hx := List.mem_append.mp hx
  · exact h.2 x hx
  · exact k.2 x hx

theorem WriteRun.attempts {n : Nat} {evs : List Event} (h : WriteRun n evs) : attempts evs = n :=
  (List.countP_eq_length.mpr h.2).trans h.1

theorem WriteRun.delays {n : Nat} {evs : List Event} (h : WriteRun n evs) : delays evs = 0 := by
  refine List.countP_eq_zero.mpr fun e he => ?_
  have hw := h.2 e he
  cases e <;> simp_all [isWrite, isDelay]

/-- From `s` to `t` there are `n` attempted writes and nothing else in the trace. -/
def WritesTo (n : Nat) (s t : State) : Prop := ∃ evs, WriteRun n evs ∧ Traced evs s t

theorem WritesTo.refl (s : State) : WritesTo 0 s s := ⟨[], ⟨rfl, by simp⟩, .refl s⟩

theorem WritesTo.silent {n : Nat} {s t u : State} (h : WritesTo n s t) (k : Traced [] t u) : WritesTo n s u := by
  obtain ⟨evs, hw, ht⟩ := h
  exact ⟨evs, hw, List.append_nil evs ▸ ht.trans k⟩

/-- One command of an init run and the `INIT_STATE` it enters (R137): 4 writes while `DW` is false, 7 while it is
true. -/
theorem WritesTo.initCommand {n : Nat} {s t : State} (h : WritesTo n s t) (ho : s.opened = true) {dw : Bool}
    (hd : t.dw = dw) (c : Byte) (i : InitState) :
    WritesTo (n + if dw then 7 else 4) s (setInitState i (writeCommand c t)) := by
  obtain ⟨evs, hw, ht⟩ := h
  obtain ⟨⟨hcfg, -, -, -, hopened, hin, hres⟩, evs', hlog, hn, hall, herr⟩ :=
    writeCommand_run (s := t) (ht.opened.trans ho) c
  have hwrites : ∀ e ∈ evs', isWrite e = true := List.all_eq_true.mp hall
  have hrun : WriteRun (if dw then 7 else 4) evs' :=
    ⟨(List.countP_eq_length.mpr hwrites).symm.trans (hd ▸ hn), hwrites⟩
  have hcommand : Traced evs' t (writeCommand c t) :=
    ⟨hcfg, hopened, hin, hres, backgroundPins_of_keptPins (writeCommand_pins c t), hlog, herr,
      writeCommand_sparesTwo c t⟩
  exact WritesTo.silent ⟨evs ++ evs', hw.append hrun, ht.trans hcommand⟩ (setInitState_traced i _)

theorem attempts_append (e f : List Event) : attempts (e ++ f) = attempts e + attempts f := List.countP_append

theorem delays_append (e f : List Event) : delays (e ++ f) = delays e + delays f := List.countP_append

/-- The trace of one init run: 51 writes, and the delay after the fourth (R132, R224). -/
structure InitTrace (p : Params) (evs : List Event) : Prop where
  length : evs.length = 52
  attempts : attempts evs = 51
  delays : delays evs = 1
  mem : ∀ e ∈ evs, isWrite e = true ∨ e = .delay p.tInit
  delay_at : evs[4]? = some (.delay p.tInit)

theorem initTrace_of_writes {p : Params} {a b : List Event} (ha : WriteRun 4 a) (hb : WriteRun 47 b) :
    InitTrace p (a ++ ([.delay p.tInit] ++ b)) where
  length := by simp [ha.1, hb.1]
  attempts := by rw [attempts_append, attempts_append, ha.attempts, hb.attempts]; rfl
  delays := by rw [delays_append, delays_append, ha.delays, hb.delays]; rfl
  mem := by
    intro e he
    obtain he | rfl | he : e ∈ a ∨ e = .delay p.tInit ∨ e ∈ b := by simpa using he
    · exact .inl (ha.2 e he)
    · exact .inr rfl
    · exact .inl (hb.2 e he)
  delay_at := by rw [← ha.1, List.getElem?_append_right (le_refl _), Nat.sub_self]; rfl

theorem initHandshake_traced {s : State} (ho : s.opened = true) (hd : s.dw = false) :
    ∃ a b, WriteRun 4 a ∧ WriteRun 12 b ∧ Traced (a ++ ([.delay s.cfg.tInit] ++ b)) s (initHandshake s) := by
  obtain ⟨a, ha, hta⟩ := (WritesTo.refl s).initCommand ho hd (nibbleByte force8bitNibble) .force8bit1
  have hdelay := delayInit_traced (setInitState .force8bit1 (writeCommand (nibbleByte force8bitNibble) s))
  rw [hta.cfg] at hdelay
  have hwait := hta.trans hdelay
  have hopen := hwait.opened.trans ho
  obtain ⟨b, hb, htb⟩ := (((((WritesTo.refl _).initCommand hopen (by simpa using hd) (nibbleByte force8bitNibble)
    .force8bit2).initCommand hopen (by simpa using hd) (nibbleByte force8bitNibble) .force8bit3).initCommand hopen
    (by simpa using hd) (nibbleByte switch4bitNibble) .switch4bit)).silent (setDw_traced true _)
  refine ⟨a, b, ha, hb, ?_⟩
  rw [← List.append_assoc]
  exact hwait.trans htb

theorem initModes_writesTo {s : State} (ho : s.opened = true) (hd : s.dw = true) : WritesTo 35 s (initModes s) := by
  have hset := (WritesTo.refl s).initCommand ho hd functionSetByte .functionSet
  have hoff := hset.initCommand ho (dw := true) (by simpa using hd) displayOffByte .displayOff
  have hclear := hoff.initCommand ho (dw := true) (by simpa using hd) clearDisplayByte .clearDisplay
  have hentry := hclear.initCommand ho (dw := true) (by simpa using hd) entryModeByte .entryMode
  exact hentry.initCommand ho (dw := true) (by simpa using hd) displayOnByte .displayOn

theorem initSequence_traced {s : State} (ho : s.opened = true) :
    ∃ evs, InitTrace s.cfg evs ∧ Traced evs s (initSequence s) := by
  have hstart := (setInitState_traced .uninitialized s).trans (setDw_traced false _)
  obtain ⟨a, b, ha, hb, hab⟩ := initHandshake_traced (s := setDw false (setInitState .uninitialized s)) ho rfl
  obtain ⟨c, hc, hmodes⟩ := initModes_writesTo (hab.opened.trans ho) rfl
  have hrun := ((hstart.trans hab).trans hmodes).trans (setInitState_traced .initReady _)
  exact ⟨_, initTrace_of_writes ha (hb.append hc), by simpa [initSequence] using hrun⟩

/-- The trace of a CONNECT after the opening: one init run, two on dual geometry (R131, R134). -/
structure ConnectTrace (p : Params) (evs : List Event) : Prop where
  attempts : attempts evs = if dual p then 102 else 51
  delays : delays evs = if dual p then 2 else 1
  mem : ∀ e ∈ evs, isWrite e = true ∨ e = .delay p.tInit
  delay_at : evs[4]? = some (.delay p.tInit)
  second_delay_at : dual p = true → evs[56]? = some (.delay p.tInit)

theorem InitTrace.connectTrace {p : Params} {evs : List Event} (h : InitTrace p evs) (hd : dual p = false) :
    ConnectTrace p evs where
  attempts := by rw [h.attempts, hd]; rfl
  delays := by rw [h.delays, hd]; rfl
  mem := h.mem
  delay_at := h.delay_at
  second_delay_at := fun hd' => absurd hd' (by simp [hd])

theorem InitTrace.connectTrace_append {p : Params} {e f : List Event} (h : InitTrace p e) (k : InitTrace p f)
    (hd : dual p = true) : ConnectTrace p (e ++ f) where
  attempts := by rw [attempts_append, h.attempts, k.attempts, if_pos hd]
  delays := by rw [delays_append, h.delays, k.delays, if_pos hd]
  mem := fun x hx => (List.mem_append.mp hx).elim (h.mem x) (k.mem x)
  delay_at := by rw [List.getElem?_append_left (by rw [h.length]; decide), h.delay_at]
  second_delay_at := fun _ => by
    rw [List.getElem?_append_right (by rw [h.length]; decide), h.length]
    exact k.delay_at

theorem initControllers_traced {s : State} (ho : s.opened = true) :
    ∃ evs, ConnectTrace s.cfg evs ∧ Traced evs s (initControllers s) := by
  obtain ⟨e, he, hone⟩ := initSequence_traced ho
  unfold initControllers
  cases hd : dual s.cfg with
  | false => exact ⟨e, he.connectTrace hd, hone⟩
  | true =>
    obtain ⟨f, hf, htwo⟩ := initSequence_traced (s := select .two (initSequence s)) (by simpa using ho)
    have hrun := ((hone.trans (select_traced (.inr (by simpa using hd)))).trans htwo).trans (select_traced (.inl rfl))
    rw [select_cfg, initSequence_cfg] at hf
    exact ⟨_, he.connectTrace_append hf hd, by simpa using hrun⟩

/-- The registers after the init runs of a CONNECT (R134). -/
theorem initControllers_registers (s : State) :
    (initControllers s).initState = .initReady ∧ (initControllers s).rs = bitRs s.cfg ∧
    (initControllers s).dw = true ∧ (s.active = .one → (initControllers s).active = .one) := by
  unfold initControllers
  split <;> simp

/-- Where the init runs of a CONNECT start: the Port just open, `ERR` clear, controller 1 selected (R131). -/
def connectStart (s : State) : State :=
  setRs (bitRs s.cfg) (select .one (clearErr (openPort (setEngState .connecting s))))

theorem connectNow_eq (s : State) : connectNow s = setEngState .ready (initControllers (connectStart s)) := rfl

/-- Settles O29: the init runs trace what they do from the opened Port, and nothing follows them but READY. -/
theorem connectCompletes : Obligations.ConnectCompletes := by
  intro s hs
  have hx : exec .connect s = .next (connectNow s) := congrArg Host.Outcome.next (if_pos hs)
  rw [connectNow_eq] at hx
  obtain ⟨evs, htrace, hrun⟩ := initControllers_traced (s := connectStart s) rfl
  obtain ⟨hinit, hrs, hdw, hact⟩ := initControllers_registers (connectStart s)
  have hlog : (initControllers (connectStart s)).log = s.log ++ .opened :: evs := by
    rw [hrun.log, List.append_cons]
    rfl
  have herr : (initControllers (connectStart s)).err = anyFailed evs := hrun.err
  exact ⟨_, evs, hx, rfl, hinit, hact rfl, hrs, hdw, hrun.opened, hlog, htrace.attempts, htrace.delays, htrace.mem,
    htrace.delay_at, htrace.second_delay_at, hrun.pins, herr, hrun.cfg, hrun.hostIn, hrun.results⟩

theorem connectNow_sparesTwo (s : State) : SparesTwo s (connectNow s) := by
  obtain ⟨evs, -, hrun⟩ := initControllers_traced (s := connectStart s) rfl
  have hstart : SparesTwo s (connectStart s) := .of_same rfl (fun _ => rfl) rfl
  have hready : SparesTwo (initControllers (connectStart s)) (connectNow s) := .of_same rfl id rfl
  exact (hstart.trans hrun.spares).trans hready

theorem execConnect_sparesTwo (s : State) : ∃ t, execConnect s = .next t ∧ SparesTwo s t := by
  refine ⟨_, rfl, ?_⟩
  split
  · exact connectNow_sparesTwo s
  · exact .refl s

theorem execDisconnect_sparesTwo (s : State) : ∃ t, execDisconnect s = .next t ∧ SparesTwo s t := by
  refine ⟨_, rfl, ?_⟩
  split
  · exact .refl s
  · exact disconnectNow_sparesTwo s

/-- On single geometry no instruction reaches controller 2, whatever the oracle answers (R50, R115). -/
theorem exec_sparesTwo (i : Instr) (s : State) : ∃ t, exec i s = .next t ∧ SparesTwo s t := by
  by_cases hl : i.layer = .hostFrame
  · cases i with
    | nop => exact ⟨_, rfl, .refl s⟩
    | connect => exact execConnect_sparesTwo s
    | disconnect => exact execDisconnect_sparesTwo s
    | print line text => exact ⟨_, rfl, printOp_sparesTwo line text s⟩
    | clearLine line => exact ⟨_, rfl, printOp_sparesTwo line _ s⟩
    | clearDisplay => exact ⟨_, rfl, .whenReady (clearDisplayNow_sparesTwo s)⟩
    | backlight enable => exact ⟨_, rfl, .whenReady (backlightNow_sparesTwo enable s)⟩
    | setCgram address pattern => exact ⟨_, rfl, .whenReady (setCgramNow_sparesTwo address pattern s)⟩
    | setCgramAuto pattern => exact ⟨_, rfl, .of_same rfl id rfl⟩
    | initBargraph => exact ⟨_, rfl, initBargraphOp_sparesTwo s⟩
    | hasBacklight => exact ⟨_, rfl, .of_same rfl id rfl⟩
    | getWidth => exact ⟨_, rfl, .of_same rfl id rfl⟩
    | getHeight => exact ⟨_, rfl, .of_same rfl id rfl⟩
    | bargraph line value => exact ⟨_, rfl, printOp_sparesTwo line _ s⟩
    | reserved opcode => exact ⟨_, rfl, .refl s⟩
    | _ => simp [Instr.layer] at hl
  · obtain ⟨f, hf, hx⟩ := exec_lcdRow hl
    exact ⟨_, hx s, whenOpen_sparesTwo hf s⟩

/-- Settles O56: between operations controller 1 is selected, and from there no instruction reaches controller 2. -/
theorem singleGeometryNeverReachesControllerTwo : Obligations.SingleGeometryNeverReachesControllerTwo := by
  intro s t h hd hs _
  obtain ⟨hwf, hact, -⟩ := h
  obtain ⟨rest, e⟩ | ⟨i, rest, e⟩ := step_cases hwf
  · rw [e] at hs
    exact Host.Outcome.next.inj hs ▸ rfl
  · obtain ⟨u, hu, hspares⟩ := exec_sparesTwo i { s with hostIn := rest }
    have htu : u = t := Host.Outcome.next.inj (hu.symm.trans (e.symm.trans hs))
    exact htu ▸ (hspares ⟨hwf, hd, hact⟩).2

end Sys2Proof.Machine
end

section
/-! SUPPORT. Proofs of the family 20_memory. Only a Port write reaches the sinks, so their memories stay canonical through
every instruction. What a stretch of the trace latches is composed from its writes (`Latching`, `strobe_latching`). A burst
without a failed write reaches a controller that attends (`Attends`, `burst_clean`), and what the display operations
store follows from the runs of data bytes; a clean init run is followed by what the controller has become (`Forcing`,
`Hears`) and by what it has latched (`LatchedTo`). -/
namespace Sys2Proof.Machine

/-! ## The memories stay canonical (R50, R75) -/

theorem MemoriesWf.sink {s : State} (h : MemoriesWf s) (c : Controller) : LcdWf (lcdOf c s) := by
  obtain ⟨hddram, hcgram, htwo⟩ := h
  cases c with
  | one => exact ⟨hddram, hcgram⟩
  | two => exact htwo

theorem commit_memoriesWf {s : State} (h : MemoriesWf s) (v : Byte) : MemoriesWf (commit v s) := by
  obtain ⟨hddram, hcgram⟩ := lcdSee_wf (h.sink .one) s.cfg .one s.drawn s.cached v
  exact ⟨hddram, hcgram, lcdSee_wf (h.sink .two) s.cfg .two s.drawn s.cached v⟩

theorem pw_memoriesWf {s : State} (h : MemoriesWf s) (m d : Byte) : MemoriesWf (pw m d s) := by
  obtain ⟨-, e⟩ | ⟨-, -, e⟩ | ⟨-, -, e⟩ := pw_cases m d s
  · exact e ▸ h
  · rw [e]
    exact commit_memoriesWf (s := record _ (takeAnswer s)) h _
  · exact e ▸ h

theorem strobe_memoriesWf {s : State} (h : MemoriesWf s) (n : Nibble) : MemoriesWf (strobe n s) :=
  pw_memoriesWf (pw_memoriesWf (pw_memoriesWf h _ _) _ _) _ _

theorem sendByte_memoriesWf {s : State} (h : MemoriesWf s) (v : Byte) : MemoriesWf (sendByte v s) := by
  have hhigh := strobe_memoriesWf (pw_memoriesWf h (controlMask s.cfg s.active) s.rs) (highNibble v)
  unfold sendByte
  split
  · exact strobe_memoriesWf hhigh _
  · exact hhigh

theorem writeCommand_memoriesWf {s : State} (h : MemoriesWf s) (c : Byte) : MemoriesWf (writeCommand c s) :=
  sendByte_memoriesWf (s := setRs 0#8 s) h c

theorem Move.memoriesWf {s t : State} (m : Move s t) (h : MemoriesWf s) : MemoriesWf t := by
  cases m with
  | command c => exact writeCommand_memoriesWf h c
  | data d => exact sendByte_memoriesWf h d
  | select c => exact h
  | backlight hbl level => exact pw_memoriesWf h _ _
  | fourBit ho => exact h
  | result b => exact h

theorem Operation.memoriesWf {s t : State} (o : Operation s t) (h : MemoriesWf s) : MemoriesWf t := by
  obtain ⟨hmoves, -⟩ := o
  induction hmoves with
  | refl => exact h
  | tail _ m ih => exact m.memoriesWf ih

theorem setInitState_memoriesWf {s : State} (h : MemoriesWf s) (i : InitState) : MemoriesWf (setInitState i s) := h

theorem select_memoriesWf {s : State} (h : MemoriesWf s) (c : Controller) : MemoriesWf (select c s) := h

theorem delayInit_memoriesWf {s : State} (h : MemoriesWf s) : MemoriesWf (delayInit s) := h

theorem setDw_memoriesWf {s : State} (h : MemoriesWf s) (b : Bool) : MemoriesWf (setDw b s) := h

/-- One command of an init run and the `INIT_STATE` it enters (R137). -/
theorem initCommand_memoriesWf {s : State} (h : MemoriesWf s) (c : Byte) (i : InitState) :
    MemoriesWf (setInitState i (writeCommand c s)) := setInitState_memoriesWf (writeCommand_memoriesWf h c) i

theorem initHandshake_memoriesWf {s : State} (h : MemoriesWf s) : MemoriesWf (initHandshake s) := by
  have hwait := delayInit_memoriesWf (initCommand_memoriesWf h (nibbleByte force8bitNibble) .force8bit1)
  exact setDw_memoriesWf (initCommand_memoriesWf (initCommand_memoriesWf (initCommand_memoriesWf hwait _ _) _ _) _ _)
    true

theorem initModes_memoriesWf {s : State} (h : MemoriesWf s) : MemoriesWf (initModes s) := by
  have hoff := initCommand_memoriesWf (initCommand_memoriesWf h functionSetByte .functionSet) displayOffByte .displayOff
  exact initCommand_memoriesWf (initCommand_memoriesWf (initCommand_memoriesWf hoff _ _) _ _) _ _

theorem initSequence_memoriesWf {s : State} (h : MemoriesWf s) : MemoriesWf (initSequence s) :=
  setInitState_memoriesWf (initModes_memoriesWf (initHandshake_memoriesWf (setDw_memoriesWf
    (setInitState_memoriesWf h _) _))) _

theorem initControllers_memoriesWf {s : State} (h : MemoriesWf s) : MemoriesWf (initControllers s) := by
  have hone := initSequence_memoriesWf h
  unfold initControllers
  split
  · exact select_memoriesWf (initSequence_memoriesWf (select_memoriesWf hone .two)) .one
  · exact hone

theorem disconnectNow_memoriesWf {s : State} (h : MemoriesWf s) : MemoriesWf (disconnectNow s) := by
  simpa [MemoriesWf, disconnectNow] using h

/-- Settles O14: only a Port write reaches the sinks, and what a sink makes of it keeps its memories canonical; every
instruction is made of Port writes. -/
theorem execKeepsMemoriesCanonical : Obligations.ExecKeepsMemoriesCanonical := by
  intro i s t h hx
  cases executed_of_exec hx with
  | operation o => exact o.memoriesWf h
  | connect _ => exact initControllers_memoriesWf (s := connectStart s) h
  | disconnect _ => exact disconnectNow_memoriesWf h

/-! ## A write on an open Port -/

/-- A masked write on an open Port by the oracle's answer (R51, R57). -/
theorem maskedWrite_of_opened {s : State} (ho : s.opened = true) (m d : Byte) :
    maskedWrite m d s = (nextAnswer s,
      let t := record (.write (mergeByte m s.cached d) (nextAnswer s)) (takeAnswer s)
      if nextAnswer s then commit (mergeByte m s.cached d) t else t) := by
  unfold maskedWrite
  rw [if_pos ho]
  cases nextAnswer s <;> rfl

section OpenPort
variable {s : State} (ho : s.opened = true) (m d : Byte)
include ho

theorem maskedWrite_answer : (maskedWrite m d s).1 = nextAnswer s := by rw [maskedWrite_of_opened ho]

theorem maskedWrite_log :
    (maskedWrite m d s).2.log = s.log ++ [.write (mergeByte m s.cached d) (nextAnswer s)] := by
  rw [maskedWrite_of_opened ho]
  dsimp only
  split <;> simp

theorem maskedWrite_cached :
    (maskedWrite m d s).2.cached = if nextAnswer s then mergeByte m s.cached d else s.cached := by
  rw [maskedWrite_of_opened ho]
  dsimp only
  split <;> rfl

theorem pw_log : (pw m d s).log = s.log ++ [.write (mergeByte m s.cached d) (nextAnswer s)] :=
  maskedWrite_log ho m d

theorem pw_cached : (pw m d s).cached = if nextAnswer s then mergeByte m s.cached d else s.cached :=
  maskedWrite_cached ho m d

theorem pw_err : (pw m d s).err = (s.err || !nextAnswer s) := by
  obtain ⟨h, -⟩ | ⟨-, ha, e⟩ | ⟨-, ha, e⟩ := pw_cases m d s
  · exact absurd ho (by simp [h])
  · simp [e, ha]
  · simp [e, ha]

end OpenPort

/-- Settles O17: the byte written is the merge of R51. -/
theorem maskedWriteMergesBitByBit : Obligations.MaskedWriteMergesBitByBit := by
  intro m d s ho
  exact ⟨mergeByte m s.cached d, fun k _ => getLsbD_mergeByte m s.cached d k, maskedWrite_answer ho m d,
    maskedWrite_log ho m d, maskedWrite_cached ho m d⟩

/-- The byte `setPin` writes: the cached one with the pin's bit at the level (R53). -/
theorem getLsbD_setPinByte (o : Byte) {pin k : Nat} (level : Bool) (hk : k < 8) :
    (mergeByte (~~~(pinBit pin)) o (if level then pinBit pin else 0#8)).getLsbD k =
      if k = pin then level else o.getLsbD k := by
  rw [getLsbD_mergeByte]
  by_cases h : k = pin
  · cases level <;> simp [h, h ▸ hk]
  · simp [h, hk]

/-- Settles O18: one masked write, whose merged byte differs from the cache at the pin alone. -/
theorem setPinChangesOneBit : Obligations.SetPinChangesOneBit := by
  intro pin level s _ ho
  refine ⟨maskedWrite_answer ho _ _, ?_, fun k hk => ?_⟩
  · rw [setPin, maskedWrite_log ho, attempts_append]
    rfl
  · rw [setPin, maskedWrite_cached ho]
    cases nextAnswer s with
    | true => simpa using getLsbD_setPinByte s.cached level hk
    | false => simp

/-- Settles O45: BACKLIGHT is one Port write at a pin that is no controller's Enable. -/
theorem backlightDrivesItsPin : Obligations.BacklightDrivesItsPin := by
  intro enable pin s h hbl
  obtain ⟨ho, -⟩ := h.open_dw
  obtain ⟨⟨hwf, -⟩, he⟩ := h
  have hx : exec (.backlight enable) s = .next (backlightNow enable s) :=
    congrArg Host.Outcome.next (whenReady_of_ready he _)
  rw [backlightNow_eq_pw hbl] at hx
  have hpin : pin < 8 := (pinsOk_of_wellFormed hwf).lt pin (by simp [presentPins, hbl])
  have hsink (c : Controller) := pw_lcdOf (backlightMask_keeps_enable hwf hbl c) (if enable then pinBit pin else 0#8)
  refine ⟨_, _, hx, pw_log ho _ _, ?_, fun k hk hne => ?_, pw_cached ho _ _, pw_err ho _ _, pw_active _ _ _,
    pw_rs _ _ _, pw_kept _ _ _, fun _ => ⟨hsink .one, hsink .two⟩⟩
  · rw [getLsbD_setPinByte _ _ hpin, if_pos rfl]
  · rw [getLsbD_setPinByte _ _ hk, if_neg hne]

/-- Settles O34: DISCONNECT closes the Port and resets three registers. -/
theorem disconnectCompletes : Obligations.DisconnectCompletes := by
  refine ⟨fun s he => congrArg Host.Outcome.next (if_pos he), fun s he => ?_⟩
  have hx : exec .disconnect s = .next (disconnectNow s) := congrArg Host.Outcome.next (if_neg he)
  exact ⟨_, hx, rfl, rfl, rfl, closePort_opened s, closePort_log s, closePort_err s, closePort_active s,
    closePort_rs s, closePort_cfg s, closePort_hostIn s, closePort_results s, closePort_lcd1 s, closePort_lcd2 s⟩

/-! ## The address map (R68) -/

/-- The geometry of a well-formed parameter set (R6, R7). -/
theorem geometry_of_wellFormed {p : Params} (h : wellFormedParams p = true) :
    1 ≤ p.width ∧ p.width ≤ 40 ∧ (p.height = 1 ∨ p.height = 2 ∨ p.height = 4) := by
  simp only [wellFormedParams, Bool.and_eq_true, Bool.or_eq_true, decide_eq_true_eq, beq_iff_eq] at h
  obtain ⟨⟨⟨⟨-, hlow⟩, hhigh⟩, hheight⟩, -⟩ := h
  exact ⟨hlow, hhigh, or_assoc.mp hheight⟩

theorem validLine_iff (p : Params) (line : Byte) :
    validLine p line = true ↔ 1 ≤ line.toNat ∧ line.toNat ≤ p.height ∧ line.toNat ≤ 4 := by
  simp [validLine, and_assoc]

theorem lineAddr_of_invalid {p : Params} {line : Byte} (h : validLine p line = false) :
    lineAddr p line = (.one, 0x00) := if_neg (by simp [h])

/-- An address of row 3 or 4 (R68): the row's base and `WIDTH`, which fit in 7 bits. -/
theorem toNat_rowAddress {w base : Nat} (hw : w ≤ 40) (hb : base ≤ 0x40) :
    (BitVec.ofNat 7 (base + w)).toNat = base + w := by
  rw [BitVec.toNat_ofNat]
  omega

theorem lineAddr_le {p : Params} (hw : p.width ≤ 40) (line : Byte) : (lineAddr p line).2.toNat ≤ 0x68 := by
  have h3 := toNat_rowAddress (base := 0x00) hw (by decide)
  have h4 := toNat_rowAddress (base := 0x40) hw (by decide)
  unfold lineAddr
  split
  · split
    · exact Nat.zero_le _
    · split
      · exact (by decide : (0x40#7).toNat ≤ 0x68)
      · split
        · exact h3.trans_le (by omega)
        · exact h4.trans_le (by omega)
  · exact Nat.zero_le _

/-- Settles O37: the rows of the map one by one, and the bound in each. -/
theorem lineAddressMap : Obligations.LineAddressMap := by
  intro p h
  obtain ⟨-, hw, hh⟩ := geometry_of_wellFormed h
  refine ⟨?_, ?_, fun h4 => ?_, fun line hl => lineAddr_of_invalid ?_, lineAddr_le hw⟩
  · simp [lineAddr]
  · by_cases h2 : 2 ≤ p.height
    · simp [lineAddr, validLine, h2]
    · simp [lineAddr, validLine, h2]
  · have h3 := toNat_rowAddress (base := 0x00) hw (by decide)
    have h4' := toNat_rowAddress (base := 0x40) hw (by decide)
    simp only [Nat.zero_add] at h3
    simp [lineAddr, validLine, h4, controller34, h3, h4']
  · rw [Bool.eq_false_iff, Ne, validLine_iff]
    omega

/-! ## What a stretch of the trace latches (R74) -/

/-- The port byte after a stretch of the trace that starts with `before`: where `latchesFrom` has come to. -/
def portAfter (p : Params) (before : Byte) (l : List Event) : Byte :=
  match l with
  | [] => before
  | .opened :: rest => portAfter p p.portInit rest
  | .write v true :: rest => portAfter p v rest
  | .write _ false :: rest => portAfter p before rest
  | .delay _ :: rest => portAfter p before rest
  | .closed :: rest => portAfter p before rest

theorem latchesFrom_append (p : Params) (before : Byte) (l m : List Event) :
    latchesFrom p before (l ++ m) = latchesFrom p before l ++ latchesFrom p (portAfter p before l) m := by
  induction l generalizing before with
  | nil => rfl
  | cons x rest ih =>
    cases x with
    | write v ok => cases ok <;> simp [latchesFrom, portAfter, ih]
    | _ => simp [latchesFrom, portAfter, ih]

theorem portAfter_append (p : Params) (before : Byte) (l m : List Event) :
    portAfter p before (l ++ m) = portAfter p (portAfter p before l) m := by
  induction l generalizing before with
  | nil => rfl
  | cons x rest ih =>
    cases x with
    | write v ok => cases ok <;> simp [portAfter, ih]
    | _ => simp [portAfter, ih]

/-- From `s` to `t` the trace latches `ls`, and the port byte it ends with is `CACHED`. -/
structure Latching (ls : List Latch) (s t : State) : Prop where
  cfg : t.cfg = s.cfg
  seen : ∃ evs, t.log = s.log ++ evs ∧ latchesFrom s.cfg s.cached evs = ls ∧ portAfter s.cfg s.cached evs = t.cached

theorem Latching.of_same {s t : State} (hcfg : t.cfg = s.cfg) (hlog : t.log = s.log) (hcached : t.cached = s.cached) :
    Latching [] s t :=
  ⟨hcfg, [], by simp [hlog], rfl, hcached.symm⟩

theorem Latching.trans {ls ms : List Latch} {s t u : State} (h : Latching ls s t) (k : Latching ms t u) :
    Latching (ls ++ ms) s u := by
  obtain ⟨hcfg, evs, hlog, hls, hport⟩ := h
  obtain ⟨kcfg, evs', klog, kls, kport⟩ := k
  rw [hcfg] at kcfg kls kport
  refine ⟨kcfg, evs ++ evs', by rw [klog, hlog, List.append_assoc], ?_, ?_⟩
  · rw [latchesFrom_append, hls, hport, kls]
  · rw [portAfter_append, hport, kport]

theorem Latching.silent {ls : List Latch} {s t u : State} (h : Latching ls s t) (k : Latching [] t u) :
    Latching ls s u := List.append_nil ls ▸ h.trans k

theorem Latching.latches_eq {ls : List Latch} {s t : State} (h : Latching ls s t) {evs : List Event}
    (hlog : t.log = s.log ++ evs) : latchesFrom s.cfg s.cached evs = ls := by
  obtain ⟨-, evs', hlog', hls, -⟩ := h
  rw [List.append_cancel_left (hlog.symm.trans hlog'), hls]

theorem select_latching (c : Controller) (s : State) : Latching [] s (select c s) :=
  .of_same (select_cfg c s) (select_log c s) (select_cached c s)

theorem delayInit_latching (s : State) : Latching [] s (delayInit s) := ⟨rfl, _, rfl, rfl, rfl⟩

/-- A Port write latches what its byte makes the two Enables do, and nothing when it fails (R74, R119). -/
theorem pw_latching {s : State} (ho : s.opened = true) (m d : Byte) :
    Latching (if nextAnswer s then latchOf s.cfg .one s.cached (mergeByte m s.cached d) ++
      latchOf s.cfg .two s.cached (mergeByte m s.cached d) else []) s (pw m d s) := by
  refine ⟨pw_cfg m d s, _, pw_log ho m d, ?_, ?_⟩
  · cases nextAnswer s <;> simp [latchesFrom]
  · rw [pw_cached ho]
    cases nextAnswer s <;> rfl

theorem latchOf_of_kept {p : Params} {c : Controller} {v w : Byte} (h : w &&& bitE p c = v &&& bitE p c) :
    latchOf p c v w = [] := by
  simp [latchOf, enableFalls, h]

theorem latchOf_eq {p : Params} {c : Controller} {e : Nat} (h : TransferPins p c e) (v w : Byte) :
    latchOf p c v w =
      if v.getLsbD e && !w.getLsbD e then [⟨c, w.getLsbD p.pins.rs, dataNibble p w⟩] else [] := by
  rw [latchOf, enableFalls_eq h, rsLevel_eq h]

theorem mergeByte_kept {m keep : Byte} (hk : m &&& keep = keep) (o d : Byte) :
    mergeByte m o d &&& keep = o &&& keep := by
  rw [← hk]
  apply BitVec.eq_of_getLsbD_eq
  intro k _
  simp only [BitVec.getLsbD_and, getLsbD_mergeByte]
  cases m.getLsbD k <;> simp

/-- A change of the port that leaves the other controller's Enable alone is latched by controller `c` alone. -/
theorem latchOf_both {p : Params} {c : Controller} {v w : Byte}
    (h : w &&& bitE p (otherController c) = v &&& bitE p (otherController c)) :
    latchOf p .one v w ++ latchOf p .two v w = latchOf p c v w := by
  have hother := latchOf_of_kept h
  cases c with
  | one => rw [show latchOf p .two v w = [] from hother, List.append_nil]
  | two => rw [show latchOf p .one v w = [] from hother, List.nil_append]

/-! ## The writes of a strobe, for every answer of the oracle (R111, R119) -/

/-- What the port shows a controller with Enable pin `e`: the level of that pin, and the nibble. -/
structure Shows (e : Nat) (en : Bool) (n : Nibble) (s : State) : Prop where
  enable : s.cached.getLsbD e = en
  nibble : dataNibble s.cfg s.cached = n

theorem pw_oracle {s : State} (ho : s.opened = true) (m d : Byte) : (pw m d s).oracle = s.oracle.tail := by
  obtain ⟨h, -⟩ | ⟨-, -, e⟩ | ⟨-, -, e⟩ := pw_cases m d s
  · exact absurd ho (by simp [h])
  · simp [e]
  · simp [e]

section Strobe
variable {s : State} {e : Nat} {en : Bool} {n : Nibble} (hwf : wellFormedParams s.cfg = true)
  (h : TransferPins s.cfg s.active e) (ho : s.opened = true) (hs : Shows e en n s)
include hwf h ho hs

/-- A control write moves Enable to `up` when it succeeds, and the controller latches the nibble when that is a fall. -/
theorem pwControl_latching {d : Byte} {r up : Bool}
    (hd : d = (if r then bitRs s.cfg else 0) ||| (if up then bitE s.cfg s.active else 0)) :
    Latching (if nextAnswer s && en && !up then [⟨s.active, r, n⟩] else []) s (pwControl d s) ∧
    Shows e (if nextAnswer s then up else en) n (pwControl d s) := by
  obtain ⟨hl, hk⟩ := control_levels h up r s.cached
  rw [← hd] at hl hk
  have hn : dataNibble s.cfg (mergeByte (controlMask s.cfg s.active) s.cached d) = n :=
    (dataNibble_congr h hk).trans hs.nibble
  have hrun := pw_latching ho (controlMask s.cfg s.active) d
  rw [latchOf_both (mergeByte_kept (controlMask_keeps_other hwf s.active) s.cached d), latchOf_eq h, hl.enable,
    hl.select, hn, hs.enable] at hrun
  have hport : (pwControl d s).cached = _ := pw_cached ho (controlMask s.cfg s.active) d
  cases ha : nextAnswer s with
  | true =>
    rw [ha, if_pos rfl] at hrun hport
    exact ⟨hrun, ⟨by rw [hport, hl.enable]; rfl, by rw [pwControl_cfg, hport, hn]⟩⟩
  | false =>
    rw [ha, if_neg (by decide)] at hrun hport
    exact ⟨hrun, ⟨by rw [hport, hs.enable]; rfl, by rw [pwControl_cfg, hport, hs.nibble]⟩⟩

/-- A data write moves the nibble when it succeeds, and nothing is latched. -/
theorem pwData_latching (m : Nibble) :
    Latching [] s (pw (dataMask s.cfg) (dbus s.cfg m) s) ∧
    Shows e en (if nextAnswer s then m else n) (pw (dataMask s.cfg) (dbus s.cfg m) s) := by
  obtain ⟨hm, hk⟩ := data_levels h m s.cached
  have hen := (hk e h.e_lt h.e_d4 h.e_d5 h.e_d6 h.e_d7).trans hs.enable
  have hkept (c : Controller) := latchOf_of_kept (mergeByte_kept (dataMask_keeps_enable hwf c) s.cached (dbus s.cfg m))
  have hrun := pw_latching ho (dataMask s.cfg) (dbus s.cfg m)
  rw [hkept, hkept, List.append_nil, ite_self] at hrun
  have hport := pw_cached ho (dataMask s.cfg) (dbus s.cfg m)
  refine ⟨hrun, ?_⟩
  cases ha : nextAnswer s with
  | true =>
    rw [ha, if_pos rfl] at hport
    exact ⟨by rw [hport, hen], by rw [pw_cfg, hport, hm]; rfl⟩
  | false =>
    rw [ha, if_neg (by decide)] at hport
    exact ⟨by rw [hport, hs.enable], by rw [pw_cfg, hport, hs.nibble]; rfl⟩

end Strobe

/-- A strobe of `m` from Enable low, by the answers to its three writes: a latch when Enable rises and falls, of the
nibble that the second write has left on the lines. -/
theorem strobe_latching {s : State} {e : Nat} {n : Nibble} (hwf : wellFormedParams s.cfg = true)
    (h : TransferPins s.cfg s.active e) (ho : s.opened = true) (hs : Shows e false n s) {r : Bool}
    (hr : s.rs = if r then bitRs s.cfg else 0) {up data down : Bool} {rest : List Bool}
    (ha : s.oracle = up :: data :: down :: rest) (m : Nibble) :
    Latching (if up && down then [⟨s.active, r, if data then m else n⟩] else []) s (strobe m s) ∧
    Shows e (up && !down) (if data then m else n) (strobe m s) ∧ (strobe m s).oracle = rest := by
  have hup : nextAnswer s = up := by simp [nextAnswer, ha]
  obtain ⟨hrun1, hs1⟩ :=
    pwControl_latching hwf h ho hs (d := s.rs ||| bitE s.cfg s.active) (up := true) (by rw [hr]; rfl)
  have ha1 : (pwControl (s.rs ||| bitE s.cfg s.active) s).oracle = data :: down :: rest := by
    rw [pwControl, pw_oracle ho, ha]; rfl
  rw [hup] at hrun1 hs1
  unfold strobe
  generalize hA : pwControl (s.rs ||| bitE s.cfg s.active) s = a at hrun1 hs1 ha1 ⊢
  obtain ⟨hcfg1, hact1, ho1⟩ : a.cfg = s.cfg ∧ a.active = s.active ∧ a.opened = true := by simp [← hA, ho]
  have hdata : nextAnswer a = data := by simp [nextAnswer, ha1]
  obtain ⟨hrun2, hs2⟩ := pwData_latching (hcfg1 ▸ hwf) (by rwa [hcfg1, hact1]) ho1 hs1 m
  have ha2 : (pw (dataMask a.cfg) (dbus a.cfg m) a).oracle = down :: rest := by rw [pw_oracle ho1, ha1]; rfl
  rw [hdata] at hs2
  rw [hcfg1] at hrun2 hs2 ha2
  generalize hB : pw (dataMask s.cfg) (dbus s.cfg m) a = b at hrun2 hs2 ha2 ⊢
  obtain ⟨hcfg2, hact2, ho2⟩ : b.cfg = s.cfg ∧ b.active = s.active ∧ b.opened = true := by
    simp [← hB, hcfg1, hact1, ho1]
  have hdown : nextAnswer b = down := by simp [nextAnswer, ha2]
  obtain ⟨hrun3, hs3⟩ := pwControl_latching (hcfg2 ▸ hwf) (by rwa [hcfg2, hact2]) ho2 hs2 (d := s.rs) (r := r)
    (up := false) (by simp [hr, hcfg2])
  have ha3 : (pwControl s.rs b).oracle = rest := by rw [pwControl, pw_oracle ho2, ha2]; rfl
  rw [hdown, hact2] at hrun3
  rw [hdown] at hs3
  have hrun := (hrun1.trans hrun2).trans hrun3
  cases up <;> cases down <;> exact ⟨by simpa using hrun, by simpa using hs3, ha3⟩

/-- Settles O25: a strobe by the answers to its three writes. -/
theorem strobeLatches : Obligations.StrobeLatches := by
  intro n s hwf ho hE hlow hrs
  obtain ⟨e, he⟩ := enablePin_of_bitE hE
  have hp := transferPins_of_wellFormed hwf he
  have hr : s.rs = if decide (s.rs ≠ 0) then bitRs s.cfg else 0 := by
    by_cases h0 : s.rs = 0
    · simp [h0]
    · rw [if_pos (by simpa using h0)]
      exact hrs.resolve_left h0
  have hs : Shows e false (dataNibble s.cfg s.cached) s := ⟨(enable_low_iff hp _).mp hlow, rfl⟩
  have horacle {up data down : Bool} (ha : s.oracle.take 3 = [up, data, down]) :
      s.oracle = up :: data :: down :: s.oracle.drop 3 := by
    conv_lhs => rw [← List.take_append_drop 3 s.oracle, ha]
    rfl
  have hrun {up data down : Bool} (ha : s.oracle.take 3 = [up, data, down]) :=
    strobe_latching hwf hp ho hs hr (horacle ha) n
  obtain ⟨-, evs, hlog, hcount, -⟩ := strobe_run ho n
  refine ⟨evs, hlog, hcount, fun ha => ?_, fun ha => ?_, fun ha => ?_, fun ha => ?_⟩
  · exact (hrun ha).1.latches_eq hlog
  · exact (hrun ha).1.latches_eq hlog
  · exact (hrun ha).1.latches_eq hlog
  · obtain ⟨hls, hshow, -⟩ := hrun ha
    refine ⟨hls.latches_eq hlog, fun hz => ?_⟩
    have hzero := (enable_low_iff hp _).mp hz
    rw [hshow.enable] at hzero
    exact absurd hzero (by decide)

/-! ## One byte to a listening controller (R75, R112) -/

theorem Listening.pins {c : Controller} {s : State} (h : Listening c s) (hwf : wellFormedParams s.cfg = true) :
    ∃ e, TransferPins s.cfg c e ∧ s.cached.getLsbD e = false := by
  obtain ⟨-, -, hE, hlow⟩ := h
  obtain ⟨e, he⟩ := enablePin_of_bitE hE
  have hp := transferPins_of_wellFormed hwf he
  exact ⟨e, hp, (enable_low_iff hp _).mp hlow⟩

section Listening
variable {s : State} (hwf : wellFormedParams s.cfg = true) (hd : s.dw = true) (hl : Listening s.active s)
include hwf hd hl

theorem writeCommand_listening {b : Byte} (hc : (writeCommand b s).err = false) :
    ∃ f, lcdOf s.active (writeCommand b s) = lcdReceive f false (highNibble b) (lowNibble b) (lcdOf s.active s) := by
  obtain ⟨e, hp, hlow⟩ := hl.pins hwf
  obtain ⟨h4, hpend, -⟩ := hl
  obtain ⟨-, -, -, hreceive⟩ := writeCommand_clean hp hd hlow h4 hpend hc
  exact hreceive

theorem writeData_listening (hr : s.rs = bitRs s.cfg) {d : Byte} (hc : (writeData d s).err = false) :
    lcdOf s.active (writeData d s) = lcdData d (lcdOf s.active s) := by
  obtain ⟨e, hp, hlow⟩ := hl.pins hwf
  obtain ⟨h4, hpend, -⟩ := hl
  obtain ⟨-, -, -, -, f, hreceive⟩ := sendByte_clean (r := true) hp hr hd hlow h4 hpend hc
  exact hreceive.trans (lcdReceive_data f d _)

/-- An LCD row that sends the command byte `b` does to the active controller what that byte stands for. -/
theorem commandRow_listening (ho : s.opened = true) {i : Instr} {b : Byte} {F : Lcd → Lcd}
    (hx : exec i s = .next (whenOpen (writeCommand b) s))
    (hF : ∀ f l, lcdReceive f false (highNibble b) (lowNibble b) l = F l) :
    ∃ t, exec i s = .next t ∧ (t.err = false → lcdOf s.active t = F (lcdOf s.active s)) := by
  rw [whenOpen_of_opened ho] at hx
  refine ⟨_, hx, fun hc => ?_⟩
  obtain ⟨f, hreceive⟩ := writeCommand_listening hwf hd hl hc
  rw [hreceive, hF]

end Listening

/-- Settles O26: each row is one command byte, and the sink decodes each byte as R86 and R87 write it. -/
theorem lcdCommandsActOnTheActiveController : Obligations.LcdCommandsActOnTheActiveController := by
  intro s hwf ho hd hl
  have row {i : Instr} {b : Byte} {F : Lcd → Lcd} := commandRow_listening hwf hd hl ho (i := i) (b := b) (F := F)
  refine ⟨fun a => row rfl fun f => lcdReceive_setDdram f a, fun a => row rfl fun f => lcdReceive_setCgram f a, ?_,
    row rfl lcdReceive_displayOff, row rfl lcdReceive_clear, row rfl lcdReceive_entryMode, row rfl lcdReceive_displayOn⟩
  obtain ⟨t, hx, ht⟩ := row (i := .lcdFunctionSet) rfl lcdReceive_functionSet
  refine ⟨t, hx, fun hc => (ht hc).trans ?_⟩
  obtain ⟨-, hpend, -⟩ := hl
  simp [lcdFunctionSet, hpend]

/-! ## One data byte (R62, R75) -/

theorem lcdData_ddram {l : Lcd} {a : BitVec 7} (ha : l.addr = .ddram a) (d : Byte) :
    lcdData d l =
      { l with ddram := Memory.write .ddram l.ddram a.toNat d, addr := nextAddr l.increment (.ddram a) } := by
  simp only [lcdData, ha]

theorem lcdData_cgram {l : Lcd} {a : BitVec 6} (ha : l.addr = .cgram a) (d : Byte) :
    lcdData d l =
      { l with cgram := Memory.write .cgram l.cgram a.toNat d, addr := nextAddr l.increment (.cgram a) } := by
  simp only [lcdData, ha]

theorem nextAddr_ddram {a : BitVec 7} (h : a ≠ 0x7F) : nextAddr true (.ddram a) = .ddram (a + 1) := by
  simp only [nextAddr, if_true, h, if_false]

theorem nextAddr_cgram {a : BitVec 6} (h : a ≠ 0x3F) : nextAddr true (.cgram a) = .cgram (a + 1) := by
  simp only [nextAddr, if_true, h, if_false]

/-- One write stores its byte and nothing else: a run of one byte. -/
theorem Memory.write_stored {sp : Space} {m : Memory} (h : Memory.wf sp m = true) {a : Nat} (ha : a < spaceSize sp)
    (d : Byte) : StoredAt sp m (Memory.write sp m a d) a [d] :=
  Memory.writeAll_stored (bytes := [d]) h ha

/-- Settles O27: the byte reaches the sink whole, which writes it at its counter's address in one of its memories. -/
theorem lcdDataIsStoredAtTheAddressCounter : Obligations.LcdDataIsStoredAtTheAddressCounter := by
  intro d s hwf ho hd hr hl hm
  have hx : exec (.lcdData d) s = .next (writeData d s) := congrArg Host.Outcome.next (whenOpen_of_opened ho _)
  obtain ⟨hddram, hcgram⟩ := hm.sink s.active
  refine ⟨_, hx, fun hc => ?_⟩
  rw [writeData_listening hwf hd hl hr hc]
  refine ⟨fun a ha => ?_, fun a ha => ?_⟩
  · rw [lcdData_ddram ha]
    refine ⟨Memory.write_stored hddram a.isLt d, rfl, fun hi hne => ?_⟩
    rw [hi]
    exact nextAddr_ddram hne
  · rw [lcdData_cgram ha]
    refine ⟨Memory.write_stored hcgram a.isLt d, rfl, fun hi hne => ?_⟩
    rw [hi]
    exact nextAddr_cgram hne

/-! ## Bursts to controllers in step -/

/-- Controller `c` is listening and counts up: what a burst needs of it. -/
structure Attends (c : Controller) (s : State) : Prop where
  listening : Listening c s
  increment : (lcdOf c s).increment = true

/-- The controllers that exist: 1, and 2 on dual geometry (R1, R50). -/
abbrev Present (p : Params) (c : Controller) : Prop := c = .one ∨ dual p = true

theorem bitE_ne_zero {p : Params} (h : wellFormedParams p = true) {c : Controller} (hc : Present p c) :
    bitE p c ≠ 0 := by
  obtain ⟨e, he⟩ : ∃ e, enablePin p.pins c = some e := by
    cases c with
    | one => exact ⟨_, rfl⟩
    | two => exact e2_present_of_dual h (hc.resolve_left (by decide))
  have hp := transferPins_of_wellFormed h he
  rw [hp.bit]
  intro h0
  have hbit := getLsbD_pinBit e e
  simp [h0, hp.e_lt] at hbit

section Ready
variable {s : State} (h : ReadyBetweenOps s)
include h

theorem ReadyBetweenOps.ready : s.engState = .ready := h.2

theorem ReadyBetweenOps.wellFormed : wellFormedParams s.cfg = true := by
  obtain ⟨⟨hwf, -⟩, -⟩ := h
  exact hwf

theorem ReadyBetweenOps.active : s.active = .one := by
  obtain ⟨⟨-, hact, -⟩, -⟩ := h
  exact hact

theorem ReadyBetweenOps.rs_eq : s.rs = bitRs s.cfg := by
  obtain ⟨⟨-, -, hrs, -⟩, -⟩ := h
  exact hrs

end Ready

theorem InStep.attends {s : State} (h : InStep s) (hb : ReadyBetweenOps s) (herr : s.err = false) {c : Controller}
    (hc : Present s.cfg c) : Attends c s := by
  have hE := bitE_ne_zero hb.wellFormed hc
  obtain ⟨-, hlow1, ⟨h4, hpend, -, -, -, -, -, hinc, -⟩, htwo⟩ := h hb.ready herr
  cases c with
  | one => exact ⟨⟨h4, hpend, hE, hlow1⟩, hinc⟩
  | two =>
    obtain ⟨hlow2, h4, hpend, -, -, -, -, -, hinc, -⟩ := htwo (hc.resolve_left (by decide))
    exact ⟨⟨h4, hpend, hE, hlow2⟩, hinc⟩

theorem Attends.select {c : Controller} {s : State} (h : Attends c s) (d : Controller) :
    Attends c (Machine.select d s) := by
  cases c <;> exact ⟨h.listening, h.increment⟩

theorem Operation.err_of_clean {s t : State} (o : Operation s t) (h : t.err = false) : s.err = false := by
  rw [Bool.eq_false_iff] at h ⊢
  exact fun hs => h (o.err_sticky hs)

/-- A command byte `b` that moves a sink as `F` does, its mode and its phase kept: the first byte of a burst. -/
structure AddressByte (b : Byte) (F : Lcd → Lcd) : Prop where
  receive : ∀ f l, lcdReceive f false (highNibble b) (lowNibble b) l = F l
  fourBit : ∀ l, (F l).fourBit = l.fourBit
  pending : ∀ l, (F l).pending = l.pending
  increment : ∀ l, (F l).increment = l.increment

theorem setDdram_addressByte (a : BitVec 7) : AddressByte (setDdramByte a) (lcdSetDdram a) :=
  ⟨fun f l => lcdReceive_setDdram f a l, fun _ => rfl, fun _ => rfl, fun _ => rfl⟩

theorem setCgram_addressByte (a : BitVec 6) : AddressByte (setCgramByte a) (lcdSetCgram a) :=
  ⟨fun f l => lcdReceive_setCgram f a l, fun _ => rfl, fun _ => rfl, fun _ => rfl⟩

theorem clear_addressByte : AddressByte clearDisplayByte lcdClear :=
  ⟨lcdReceive_clear, fun _ => rfl, fun _ => rfl, fun _ => rfl⟩

theorem lcdDataAll_mode (ds : List Byte) (l : Lcd) :
    (lcdDataAll ds l).fourBit = l.fourBit ∧ (lcdDataAll ds l).pending = l.pending ∧
    (lcdDataAll ds l).increment = l.increment := by
  induction ds generalizing l with
  | nil => exact ⟨rfl, rfl, rfl⟩
  | cons d rest ih =>
    obtain ⟨h4, hpend, hinc⟩ := ih (lcdData d l)
    obtain ⟨h4', hpend', -, -, -, -, -, hinc', -⟩ := lcdData_mode d l
    exact ⟨h4.trans h4', hpend.trans hpend', hinc.trans hinc'⟩

/-- The pins a transfer to `c` keeps include the other controller's Enable (R118). -/
theorem otherEnable_of_keptPins {p : Params} (h : wellFormedParams p = true) {c : Controller} {v w : Byte}
    (hk : v &&& keptPins p c = w &&& keptPins p c) :
    v &&& bitE p (otherController c) = w &&& bitE p (otherController c) := by
  have hsub : keptPins p c &&& bitE p (otherController c) = bitE p (otherController c) := by
    rw [keptPins, BitVec.and_assoc, dataMask_keeps_enable h, controlMask_keeps_other h]
  rw [← hsub, ← BitVec.and_assoc, hk, BitVec.and_assoc]

theorem burst_err_of_clean {c : Controller} {b : Byte} {data : List Byte} {s : State}
    (h : (burst c b data s).err = false) : s.err = false :=
  ((Operation.command b (select c s)).trans (.allData data _)).err_of_clean h

theorem burst_keptPins (c : Controller) (b : Byte) (data : List Byte) (s : State) :
    (burst c b data s).cached &&& keptPins s.cfg c = s.cached &&& keptPins s.cfg c := by
  have hcommand := writeCommand_pins b (select c s)
  have hdata := writeAllData_pins data (writeCommand b (select c s))
  simp only [writeCommand_cfg, writeCommand_active] at hdata
  exact hdata.trans hcommand

@[simp] theorem burst_cfg (c : Controller) (b : Byte) (data : List Byte) (s : State) :
    (burst c b data s).cfg = s.cfg := by simp [burst]
@[simp] theorem burst_dw (c : Controller) (b : Byte) (data : List Byte) (s : State) :
    (burst c b data s).dw = s.dw := by simp [burst]

/-- A burst without a failed write, to a controller that attends: it gets the address byte and then every data byte, in
order, and attends again (R62, R65). -/
theorem burst_clean {s : State} (hwf : wellFormedParams s.cfg = true) (hd : s.dw = true) {c : Controller}
    (ha : Attends c s) {b : Byte} {F : Lcd → Lcd} (hF : AddressByte b F) (data : List Byte)
    (hc : (burst c b data s).err = false) :
    lcdOf c (burst c b data s) = lcdDataAll data (F (lcdOf c s)) ∧ Attends c (burst c b data s) := by
  obtain ⟨hl, hinc⟩ := ha
  obtain ⟨e, hp, hlow⟩ := hl.pins hwf
  obtain ⟨h4, hpend, hE, -⟩ := hl
  have hcommand := (Operation.allData data _).err_of_clean hc
  obtain ⟨-, -, hlv, f, hreceive⟩ := writeCommand_clean (s := select c s) hp hd hlow (by simpa using h4)
    (by simpa using hpend) hcommand
  rw [hF.receive, select_active, lcdOf_select] at hreceive
  obtain ⟨-, hlow', -, hall⟩ := writeAllData_clean (s := writeCommand b (select c s)) (e := e) (by simpa using hp)
    (by simp) (by simpa using hd) data hlv.enable (by simpa using hlv.readWrite)
    (by rw [writeCommand_active, select_active, hreceive, hF.fourBit, h4])
    (by rw [writeCommand_active, select_active, hreceive, hF.pending, hpend]) hc
  rw [writeCommand_active, select_active, hreceive] at hall
  have hsink : lcdOf c (burst c b data s) = lcdDataAll data (F (lcdOf c s)) := hall
  obtain ⟨h4', hpend', hinc'⟩ := lcdDataAll_mode data (F (lcdOf c s))
  have hcfg := burst_cfg c b data s
  refine ⟨hsink, ⟨?_, ?_, hcfg ▸ hE, ?_⟩, ?_⟩
  · rw [hsink, h4', hF.fourBit, h4]
  · rw [hsink, hpend', hF.pending, hpend]
  · rw [hcfg]
    exact (enable_low_iff hp _).mpr hlow'
  · rw [hsink, hinc', hF.increment, hinc]

/-- A burst on one controller leaves the other attending. -/
theorem burst_attends_other {s : State} (hwf : wellFormedParams s.cfg = true) {c : Controller}
    (ha : Attends (otherController c) s) (b : Byte) (data : List Byte) :
    Attends (otherController c) (burst c b data s) := by
  obtain ⟨⟨h4, hpend, hE, hlow⟩, hinc⟩ := ha
  have hpins := otherEnable_of_keptPins hwf (burst_keptPins c b data s)
  rw [← burst_other hwf c b data] at h4 hpend hinc
  refine ⟨⟨h4, hpend, ?_, ?_⟩, hinc⟩
  · rwa [burst_cfg]
  · rw [burst_cfg, hpins, hlow]

/-- The same burst on every controller that exists, and back to controller 1: what SET_CGRAM and CLEAR_DISPLAY make
(R153, R154). -/
def burstEach (b : Byte) (data : List Byte) (s : State) : State :=
  select .one (if dual s.cfg then burst .two b data (burst .one b data s) else burst .one b data s)

theorem setCgramNow_eq_burstEach (a : BitVec 6) (rows : List Byte) (s : State) :
    setCgramNow a rows s = burstEach (setCgramByte a) rows s := rfl

theorem select_of_active {c : Controller} {s : State} (h : s.active = c) : select c s = s := by
  rw [select, ← h]

theorem clearDisplayNow_eq_burstEach {s : State} (h : s.active = .one) :
    clearDisplayNow s = burstEach clearDisplayByte [] s := by
  have hone : burst .one clearDisplayByte [] s = writeCommand clearDisplayByte s :=
    congrArg (writeCommand clearDisplayByte) (select_of_active h)
  unfold clearDisplayNow burstEach
  rw [hone]
  split
  · rfl
  · exact (select_of_active (by simpa using h)).symm

/-- `setCgramNow_displayRun` for any command byte. -/
theorem burstEach_displayRun {s : State} (ho : s.opened = true) (hd : s.dw = true) (b : Byte) (data : List Byte) :
    DisplayRun (7 * (1 + data.length) * (if dual s.cfg then 2 else 1)) s (burstEach b data s) := by
  have hone := burst_displayRun ho hd .one b data
  obtain ⟨-, -, -, hdw, hopen, -⟩ := hone.run.kept
  unfold burstEach
  split
  · rw [Nat.mul_two]
    exact (hone.trans (burst_displayRun (hopen.trans ho) (hdw.trans hd) .two b data)).select .one
  · rw [Nat.mul_one]
    exact hone.select .one

/-- Every controller that exists gets a clean burst made on each, and attends again. -/
theorem burstEach_clean {s : State} (hwf : wellFormedParams s.cfg = true) (hd : s.dw = true)
    (ha : ∀ c, Present s.cfg c → Attends c s) {b : Byte} {F : Lcd → Lcd} (hF : AddressByte b F) (data : List Byte)
    (hc : (burstEach b data s).err = false) {c : Controller} (hcp : Present s.cfg c) :
    lcdOf c (burstEach b data s) = lcdDataAll data (F (lcdOf c s)) ∧ Attends c (burstEach b data s) := by
  have hone := ha .one (.inl rfl)
  unfold burstEach at hc ⊢
  split at hc
  next hdual =>
    rw [if_pos hdual, lcdOf_select]
    rw [select_err] at hc
    have hc1 := burst_err_of_clean hc
    obtain ⟨hsink1, hat1⟩ := burst_clean hwf hd hone hF data hc1
    have hat2 : Attends .two (burst .one b data s) :=
      burst_attends_other (c := .one) hwf (ha .two (.inr hdual)) b data
    have htwo : lcdOf .two (burst .one b data s) = lcdOf .two s := burst_other hwf .one b data
    have hother := burst_other (s := burst .one b data s) (by simpa using hwf) .two b data
    obtain ⟨hsink2, hat2'⟩ :=
      burst_clean (s := burst .one b data s) (by simpa using hwf) (by simpa using hd) hat2 hF data hc
    cases c with
    | one => exact ⟨hother.trans hsink1, (burst_attends_other (c := .two) (by simpa using hwf) hat1 b data).select .one⟩
    | two => exact ⟨hsink2.trans (by rw [htwo]), hat2'.select .one⟩
  next hsingle =>
    rw [if_neg hsingle, lcdOf_select]
    obtain rfl := hcp.resolve_right hsingle
    obtain ⟨hsink, hat⟩ := burst_clean hwf hd hone hF data hc
    exact ⟨hsink, hat.select .one⟩

/-! ## What clean display operations store -/

theorem exec_print_of_ready {s : State} (he : s.engState = .ready) (line : Byte) (text : List Byte) :
    exec (.print line text) s =
      .next (select .one (burst (lineAddr s.cfg line).1 (setDdramByte (lineAddr s.cfg line).2) text s)) :=
  congrArg Host.Outcome.next (whenReady_of_ready he _)

/-- PRINT without a failed write is a burst to a controller that exists and attends. -/
theorem printBurst_clean {line : Byte} {text : List Byte} {s : State} (h : ReadyBetweenOps s) (hin : InStep s)
    (hc : (burst (lineAddr s.cfg line).1 (setDdramByte (lineAddr s.cfg line).2) text s).err = false) :
    Attends (lineAddr s.cfg line).1 s ∧
    lcdOf (lineAddr s.cfg line).1 (burst (lineAddr s.cfg line).1 (setDdramByte (lineAddr s.cfg line).2) text s) =
      lcdDataAll text (lcdSetDdram (lineAddr s.cfg line).2 (lcdOf (lineAddr s.cfg line).1 s)) := by
  obtain ⟨-, hd⟩ := h.open_dw
  have hat := hin.attends h (burst_err_of_clean hc) (lineAddr_controller s.cfg line)
  exact ⟨hat, (burst_clean h.wellFormed hd hat (setDdram_addressByte _) text hc).1⟩

/-- Settles O39: the burst is the address command and the text. -/
theorem printSendsTheAddressThenEveryByte : Obligations.PrintSendsTheAddressThenEveryByte := by
  intro line text s h hin
  refine ⟨_, exec_print_of_ready h.ready line text, fun hc => ?_⟩
  rw [select_err] at hc
  rw [lcdOf_select, (printBurst_clean h hin hc).2]
  rfl

/-- Settles O40: the bytes PRINT sends run through consecutive DDRAM addresses. -/
theorem printStoresItsText : Obligations.PrintStoresItsText := by
  intro line text s h hin hm hlen
  refine ⟨_, exec_print_of_ready h.ready line text, fun hc => ?_⟩
  rw [select_err] at hc
  obtain ⟨hat, hsink⟩ := printBurst_clean h hin hc
  obtain ⟨x, hall, hx⟩ := lcdDataAll_ddram
    (l := lcdSetDdram (lineAddr s.cfg line).2 (lcdOf (lineAddr s.cfg line).1 s)) hat.increment rfl hlen
  rw [lcdOf_select, hsink, hall]
  exact ⟨Memory.writeAll_stored (hm.sink _).1 hlen, rfl, hx⟩

/-- Settles O41: what PRINT does and stores, for a text of `WIDTH` spaces. -/
theorem clearLineBlanksItsRowOnly : Obligations.ClearLineBlanksItsRowOnly := by
  intro line s
  have hprint : exec (.clearLine line) s = exec (.print line (List.replicate s.cfg.width 0x20)) s := rfl
  refine ⟨hprint, fun h => ?_⟩
  obtain ⟨t, evs, hx, hlog, -, hn, herr, hact, hrs, hkept, hpins, -⟩ :=
    printCompletes line (List.replicate s.cfg.width 0x20) s h
  rw [List.length_replicate] at hn
  refine ⟨t, evs, hprint.trans hx, hlog, hn, hact, hrs, hkept, herr, hpins, fun hin hm hrow hc => ?_⟩
  obtain ⟨u, hu, hstored⟩ :=
    printStoresItsText line (List.replicate s.cfg.width 0x20) s h hin hm (by rwa [List.length_replicate])
  obtain rfl := Host.Outcome.next.inj (hu.symm.trans hx)
  obtain ⟨⟨hinside, houtside⟩, -, -⟩ := hstored hc
  rw [List.length_replicate] at hinside houtside
  refine ⟨fun x hlow hhigh => ?_, houtside⟩
  obtain ⟨k, rfl⟩ := Nat.exists_eq_add_of_le hlow
  have hk : k < s.cfg.width := by omega
  rw [hinside k hk, List.getD_replicate _ hk]

/-- Settles O42: CLEAR_DISPLAY is a burst without data on each controller. -/
theorem clearDisplayCompletes : Obligations.ClearDisplayCompletes := by
  intro s h
  obtain ⟨ho, hd⟩ := h.open_dw
  have hwf := h.wellFormed
  have hx : exec .clearDisplay s = .next (clearDisplayNow s) :=
    congrArg Host.Outcome.next (whenReady_of_ready h.ready _)
  rw [clearDisplayNow_eq_burstEach h.active] at hx
  obtain ⟨⟨hkept, evs, hlog, hn, -, herr⟩, hrs, hpins⟩ := burstEach_displayRun ho hd clearDisplayByte []
  have hcount : attempts evs = if dual s.cfg then 14 else 7 := by
    rw [hn]
    split <;> rfl
  refine ⟨_, evs, hx, hlog, hcount, herr, rfl, hrs, hkept, hpins, fun hin hc => ?_⟩
  have hclean : s.err = false := (Bool.or_eq_false_iff.mp (herr.symm.trans hc)).1
  have hsink {c : Controller} (hcp : Present s.cfg c) :=
    (burstEach_clean hwf hd (fun c => hin.attends h hclean) clear_addressByte [] hc hcp).1
  refine ⟨hsink (.inl rfl), ?_⟩
  split
  next hdual => exact hsink (c := .two) (.inr hdual)
  next hsingle =>
    rw [burstEach, if_neg hsingle]
    exact burst_other hwf .one clearDisplayByte []

/-! ## What clean CGRAM loads store -/

theorem setCgramNow_err_of_clean {a : BitVec 6} {rows : List Byte} {s : State}
    (h : (setCgramNow a rows s).err = false) : s.err = false := by
  rw [setCgramNow_eq_burstEach, burstEach, select_err] at h
  split at h
  · exact burst_err_of_clean (burst_err_of_clean h)
  · exact burst_err_of_clean h

/-- SET_CGRAM without a failed write, to controllers that attend: each that exists has the rows in its CGRAM, nothing
else of its memories changed, and attends again (R61, R62, R66). -/
theorem setCgramNow_clean {s : State} (hwf : wellFormedParams s.cfg = true) (hd : s.dw = true)
    (ha : ∀ c, Present s.cfg c → Attends c s) (hm : MemoriesWf s) {a : BitVec 6} {rows : List Byte}
    (hlen : a.toNat + rows.length ≤ 64) (hc : (setCgramNow a rows s).err = false) {c : Controller}
    (hcp : Present s.cfg c) :
    StoredAt .cgram (lcdOf c s).cgram (lcdOf c (setCgramNow a rows s)).cgram a.toNat rows ∧
    (lcdOf c (setCgramNow a rows s)).ddram = (lcdOf c s).ddram ∧ Attends c (setCgramNow a rows s) := by
  rw [setCgramNow_eq_burstEach] at hc ⊢
  obtain ⟨hsink, hat⟩ := burstEach_clean hwf hd ha (setCgram_addressByte a) rows hc hcp
  obtain ⟨x, hall⟩ := lcdDataAll_cgram (l := lcdSetCgram a (lcdOf c s)) (ha c hcp).increment rfl hlen
  rw [hall] at hsink
  rw [hsink]
  exact ⟨Memory.writeAll_stored (hm.sink c).2 hlen, rfl, hat⟩

/-- Settles O44: SET_CGRAM is the same burst on each controller, through consecutive CGRAM addresses. -/
theorem setCgramStoresItsPattern : Obligations.SetCgramStoresItsPattern := by
  intro a rows s hrows hlen h hin hm
  obtain ⟨-, hd⟩ := h.open_dw
  have hx : exec (.setCgram a rows) s = .next (setCgramNow a rows s) :=
    congrArg Host.Outcome.next (whenReady_of_ready h.ready _)
  refine ⟨_, hx, fun hc => ?_⟩
  have hat (c : Controller) (hcp : Present s.cfg c) := hin.attends h (setCgramNow_err_of_clean hc) hcp
  have hstored {c : Controller} (hcp : Present s.cfg c) :=
    setCgramNow_clean h.wellFormed hd hat hm (hrows ▸ hlen) hc hcp
  obtain ⟨hrows1, hddram1, -⟩ := hstored (.inl rfl)
  refine ⟨hrows1, hddram1, fun hdual => ?_⟩
  obtain ⟨hrows2, hddram2, -⟩ := hstored (c := .two) (.inr hdual)
  exact ⟨hrows2, hddram2⟩

/-! ## The bar-graph glyphs (R181, R182) -/

/-- The first `n` loads of INIT_BARGRAPH. -/
def loadGlyphs (n : Nat) (s : State) : State :=
  (List.range n).foldl (fun t k => setCgramOp (slotAddress k) (glyph k) t) s

theorem loadGlyphs_succ (n : Nat) (s : State) :
    loadGlyphs (n + 1) s = setCgramOp (slotAddress n) (glyph n) (loadGlyphs n s) := by
  rw [loadGlyphs, List.range_succ, List.foldl_append]
  rfl

theorem initBargraphOp_eq (s : State) : initBargraphOp s = loadGlyphs 6 s := rfl

theorem loadGlyphs_operation (n : Nat) (s : State) : Operation s (loadGlyphs n s) :=
  .foldl (fun s k => setCgramOp_operation (slotAddress k) (glyph k) s) _ s

theorem toNat_slotAddress {k : Nat} (h : k < 6) : (slotAddress k).toNat = 8 * k := by
  rw [slotAddress, BitVec.toNat_ofNat]
  omega

/-- The row of every line of glyph `k` (R182). -/
theorem glyph_getD {k j : Nat} (hk : k < 6) (hj : j < 8) :
    (glyph k).getD j 0 = ([0x00, 0x10, 0x18, 0x1C, 0x1E, 0x1F] : List Byte).getD k 0 := by
  rw [glyph, List.getD_replicate _ hj]
  exact (by decide : ∀ k < 6, (0x1F#8 <<< (5 - k)) &&& 0x1F =
    ([0x00, 0x10, 0x18, 0x1C, 0x1E, 0x1F] : List Byte).getD k 0) k hk

section Glyphs
variable {s : State} (h : ReadyBetweenOps s)
include h

theorem loadGlyphs_displayRun (n : Nat) :
    DisplayRun (63 * n * (if dual s.cfg then 2 else 1)) s (loadGlyphs n s) := by
  induction n with
  | zero => exact ⟨(PortRun.refl s).cast (by simp), h.rs_eq, rfl⟩
  | succ n ih =>
    obtain ⟨ho, hd⟩ := h.open_dw
    obtain ⟨hcfg, heng, -, hdw, hopen, -⟩ := ih.run.kept
    have hload := setCgramNow_displayRun (hopen.trans ho) (hdw.trans hd) (slotAddress n) (glyph n)
    rw [loadGlyphs_succ, setCgramOp, whenReady_of_ready (heng.trans h.ready)]
    obtain ⟨hrun, hrs, hpins⟩ := ih.trans hload
    refine ⟨hrun.cast ?_, hrs, hpins⟩
    rw [hcfg, ← Nat.add_mul, Nat.mul_succ, glyph, List.length_replicate]

theorem loadGlyphs_ready (n : Nat) : ReadyBetweenOps (loadGlyphs n s) := by
  obtain ⟨-, heng, -⟩ := (loadGlyphs_displayRun h n).run.kept
  exact ⟨(loadGlyphs_operation n s).betweenOps h.1, heng.trans h.ready⟩

theorem loadGlyphs_succ_of_ready (n : Nat) :
    loadGlyphs (n + 1) s = setCgramNow (slotAddress n) (glyph n) (loadGlyphs n s) := by
  rw [loadGlyphs_succ]
  exact whenReady_of_ready (loadGlyphs_ready h n).ready _

end Glyphs

/-- Slots below `n` hold their glyphs, and the rest of the CGRAM and the DDRAM are those of `l`. -/
structure GlyphsLoaded (n : Nat) (l l' : Lcd) : Prop where
  rows : ∀ k j, k < n → j < 8 → Memory.read .cgram l'.cgram (8 * k + j) =
    ([0x00, 0x10, 0x18, 0x1C, 0x1E, 0x1F] : List Byte).getD k 0
  rest : ∀ x, 8 * n ≤ x → Memory.read .cgram l'.cgram x = Memory.read .cgram l.cgram x
  ddram : l'.ddram = l.ddram

theorem GlyphsLoaded.succ {n : Nat} (hn : n < 6) {l l' l'' : Lcd} (h : GlyphsLoaded n l l')
    (hs : StoredAt .cgram l'.cgram l''.cgram (8 * n) (glyph n)) (hd : l''.ddram = l'.ddram) :
    GlyphsLoaded (n + 1) l l'' := by
  obtain ⟨hinside, houtside⟩ := hs
  have hlen : (glyph n).length = 8 := List.length_replicate
  rw [hlen] at hinside houtside
  refine ⟨fun k j hk hj => ?_, fun x hx => ?_, hd.trans h.ddram⟩
  · obtain hlt | rfl := Nat.lt_succ_iff_lt_or_eq.mp hk
    · rw [houtside _ (by omega), h.rows k j hlt hj]
    · rw [hinside j hj, glyph_getD hn hj]
  · rw [houtside x (by omega), h.rest x (by omega)]

/-- The first `n` loads without a failed write, from controllers in step. -/
theorem loadGlyphs_clean {s : State} (h : ReadyBetweenOps s) (hin : InStep s) (hm : MemoriesWf s) {n : Nat} (hn : n ≤ 6)
    (hc : (loadGlyphs n s).err = false) {c : Controller} (hcp : Present s.cfg c) :
    GlyphsLoaded n (lcdOf c s) (lcdOf c (loadGlyphs n s)) ∧ Attends c (loadGlyphs n s) := by
  induction n generalizing c with
  | zero => exact ⟨⟨fun k j hk => absurd hk (by omega), fun _ _ => rfl, rfl⟩, hin.attends h hc hcp⟩
  | succ n ih =>
    rw [loadGlyphs_succ_of_ready h] at hc ⊢
    have hprev := setCgramNow_err_of_clean hc
    have hready := loadGlyphs_ready h n
    obtain ⟨-, hdw⟩ := hready.open_dw
    have hcfg := (loadGlyphs_displayRun h n).cfg
    have hslot := toNat_slotAddress (k := n) hn
    have hat (c : Controller) (hcp : Present (loadGlyphs n s).cfg c) := (ih (by omega) hprev (hcfg ▸ hcp)).2
    obtain ⟨hstored, hddram, hat'⟩ := setCgramNow_clean hready.wellFormed hdw hat
      ((loadGlyphs_operation n s).memoriesWf hm) (by rw [hslot, glyph, List.length_replicate]; omega) hc
      (hcfg.symm ▸ hcp)
    rw [hslot] at hstored
    exact ⟨(ih (by omega) hprev hcp).1.succ hn hstored hddram, hat'⟩

/-- Settles O51: six loads, each of one slot. -/
theorem initBargraphLoadsSixGlyphs : Obligations.InitBargraphLoadsSixGlyphs := by
  intro s h
  obtain ⟨⟨hkept, evs, hlog, hn, -, herr⟩, hrs, hpins⟩ := loadGlyphs_displayRun h 6
  have hcount : attempts evs = if dual s.cfg then 756 else 378 := by
    rw [hn]
    split <;> rfl
  have hact := (loadGlyphs_operation 6 s).active h.active
  have hx : exec .initBargraph s = .next (loadGlyphs 6 s) := congrArg Host.Outcome.next (initBargraphOp_eq s)
  refine ⟨_, evs, hx, hlog, hcount, herr, hact, hrs, hkept, hpins, fun hin hm hc c hcp => ?_⟩
  obtain ⟨⟨hrows, hrest, hddram⟩, -⟩ := loadGlyphs_clean h hin hm (le_refl 6) hc hcp
  exact ⟨hrows, hrest, hddram⟩

/-! ## CONNECT: what an init run leaves alone -/

@[simp] theorem lcdOf_setInitState (c : Controller) (i : InitState) (s : State) :
    lcdOf c (setInitState i s) = lcdOf c s := by
  cases c <;> rfl
@[simp] theorem lcdOf_delayInit (c : Controller) (s : State) : lcdOf c (delayInit s) = lcdOf c s := by
  cases c <;> rfl

/-- From `s` to `t` controller `c` is selected, and the other's sink and its Enable are as before. -/
structure SparesOther (c : Controller) (s t : State) : Prop where
  cfg : t.cfg = s.cfg
  active : t.active = c
  sink : lcdOf (otherController c) t = lcdOf (otherController c) s
  enable : t.cached &&& bitE s.cfg (otherController c) = s.cached &&& bitE s.cfg (otherController c)

section SparesOther
variable {c : Controller} {s t : State} (h : SparesOther c s t)
include h

theorem SparesOther.setInitState (i : InitState) : SparesOther c s (Machine.setInitState i t) :=
  { h with sink := by simpa using h.sink }

theorem SparesOther.setDw (b : Bool) : SparesOther c s (Machine.setDw b t) :=
  { h with sink := by simpa using h.sink }

theorem SparesOther.delay : SparesOther c s (delayInit t) :=
  { h with sink := by simpa using h.sink }

variable (hwf : wellFormedParams s.cfg = true)
include hwf

/-- One command of an init run and the `INIT_STATE` it enters (R137). -/
theorem SparesOther.command (b : Byte) (i : InitState) :
    SparesOther c s (Machine.setInitState i (writeCommand b t)) := by
  obtain ⟨hcfg, hact, hsink, henable⟩ := h
  have hother := writeCommand_other (s := t) (hcfg ▸ hwf) b
  have hpins := otherEnable_of_keptPins (hcfg ▸ hwf) (writeCommand_pins b t)
  rw [hact] at hother hpins
  rw [hcfg] at hpins
  exact ⟨by simpa using hcfg, by simpa using hact, by simpa using hother.trans hsink, hpins.trans henable⟩

theorem SparesOther.handshake : SparesOther c s (initHandshake t) :=
  (((((h.command hwf _ _).delay.command hwf _ _).command hwf _ _).command hwf _ _)).setDw true

theorem SparesOther.modes : SparesOther c s (initModes t) :=
  ((((h.command hwf _ _).command hwf _ _).command hwf _ _).command hwf _ _).command hwf _ _

end SparesOther

theorem initSequence_sparesOther {c : Controller} {s : State} (hwf : wellFormedParams s.cfg = true)
    (hact : s.active = c) : SparesOther c s (initSequence s) := by
  have hstart : SparesOther c s s := ⟨rfl, hact, rfl, rfl⟩
  exact ((((hstart.setInitState .uninitialized).setDw false).handshake hwf).modes hwf).setInitState .initReady

/-! ## A clean init run: what it makes of its controller (R222) -/

theorem writeCommand_err_of_clean {b : Byte} {s : State} (h : (writeCommand b s).err = false) : s.err = false :=
  (Operation.command b s).err_of_clean h

theorem Forcing.setInitState {k : Nat} {g : Memory} {s : State} (h : Forcing k g s) (i : InitState) :
    Forcing k g (Machine.setInitState i s) :=
  ⟨by simpa using h.within, h.low, by simpa using h.cgram⟩

theorem Forcing.delay {k : Nat} {g : Memory} {s : State} (h : Forcing k g s) : Forcing k g (delayInit s) :=
  ⟨by simpa using h.within, h.low, by simpa using h.cgram⟩

/-- The active controller is `c`, in full-byte transfers (`DW`); its sink is `l` and its Enable is low. -/
structure Hears (c : Controller) (l : Lcd) (s : State) : Prop where
  wellFormed : wellFormedParams s.cfg = true
  active : s.active = c
  dw : s.dw = true
  sink : lcdOf c s = l
  enable : bitE s.cfg c ≠ 0
  low : s.cached &&& bitE s.cfg c = 0

/-- A clean command byte to a controller at a byte boundary in 4-bit mode does what it stands for. -/
theorem Hears.command {c : Controller} {l : Lcd} {s : State} (h : Hears c l s) (h4 : l.fourBit = true)
    (hpend : l.pending = none) {b : Byte} {F : Lcd → Lcd}
    (hF : ∀ f l, lcdReceive f false (highNibble b) (lowNibble b) l = F l) (i : InitState)
    (hc : (setInitState i (writeCommand b s)).err = false) : Hears c (F l) (setInitState i (writeCommand b s)) := by
  obtain ⟨hwf, rfl, hd, hsink, hE, hlow⟩ := h
  obtain ⟨e, he⟩ := enablePin_of_bitE hE
  have hp := transferPins_of_wellFormed hwf he
  obtain ⟨-, -, hlv, f, hreceive⟩ := writeCommand_clean hp hd ((enable_low_iff hp _).mp hlow)
    (by rw [hsink, h4]) (by rw [hsink, hpend]) hc
  rw [hF, hsink] at hreceive
  exact ⟨by simpa using hwf, by simp, by simpa using hd, by simpa using hreceive, by simpa using hE,
    by simpa using (enable_low_iff hp _).mpr hlv.enable⟩

/-- The five mode commands make a controller in 4-bit mode, at a byte boundary, fresh (R222, R87). -/
theorem initModes_clean {s : State} (hc : (initModes s).err = false) :
    s.err = false ∧ ∀ {c l}, Hears c l s → l.fourBit = true → l.pending = none →
      Hears c (freshLcd l.cgram) (initModes s) := by
  have hc4 := writeCommand_err_of_clean hc
  have hc3 := writeCommand_err_of_clean hc4
  have hc2 := writeCommand_err_of_clean hc3
  have hc1 := writeCommand_err_of_clean hc2
  refine ⟨writeCommand_err_of_clean hc1, fun h h4 hpend => ?_⟩
  have hset := h.command h4 hpend lcdReceive_functionSet _ hc1
  have hoff := hset.command rfl rfl lcdReceive_displayOff _ hc2
  have hclear := hoff.command rfl rfl lcdReceive_clear _ hc3
  have hentry := hclear.command rfl rfl lcdReceive_entryMode _ hc4
  exact hentry.command rfl rfl lcdReceive_displayOn _ hc

/-- Behind the forced handshake a clean SWITCH_4BIT leaves 4-bit mode at a byte boundary (R88). -/
theorem Forcing.switch {g : Memory} {s : State} {e : Nat} (h : Forcing 0 g s) (hp : TransferPins s.cfg s.active e)
    (hd : s.dw = false) (hc : (writeCommand (nibbleByte switch4bitNibble) s).err = false) :
    (lcdOf s.active (writeCommand (nibbleByte switch4bitNibble) s)).fourBit = true ∧
    (lcdOf s.active (writeCommand (nibbleByte switch4bitNibble) s)).pending = none ∧
    (lcdOf s.active (writeCommand (nibbleByte switch4bitNibble) s)).cgram = g ∧
    (writeCommand (nibbleByte switch4bitNibble) s).cached &&& bitE s.cfg s.active = 0 := by
  obtain ⟨-, hlow, u, f, l, hlatch, hg, hl⟩ := writeCommand_nibble_clean hp hd hc
  rw [hl (h.low (by decide))] at hlatch
  obtain ⟨h4, hpend⟩ := lcdLatch_switch h.within u f
  rw [hlatch]
  exact ⟨h4, hpend, (lcdLatch_command_cgram _ _ _ _).trans h.cgram, hlow⟩

/-- A clean handshake of an init run leaves its controller in 4-bit mode at a byte boundary, from any state of it. -/
theorem initHandshake_clean {s : State} (hwf : wellFormedParams s.cfg = true) (hE : bitE s.cfg s.active ≠ 0)
    (hd : s.dw = false) (hc : (initHandshake s).err = false) :
    ∃ l, l.fourBit = true ∧ l.pending = none ∧ l.cgram = (lcdOf s.active s).cgram ∧
      Hears s.active l (initHandshake s) := by
  obtain ⟨e, he⟩ := enablePin_of_bitE hE
  have hp := transferPins_of_wellFormed hwf he
  have hc3 := writeCommand_err_of_clean hc
  have hc2 := writeCommand_err_of_clean hc3
  have hc1 := writeCommand_err_of_clean hc2
  have hany : Forcing 3 (lcdOf s.active s).cgram s := ⟨trivial, fun h => absurd h (by decide), rfl⟩
  have h1 := ((hany.force (by decide) hp hd hc1).setInitState .force8bit1).delay
  have h2 := (h1.force (e := e) (by decide) (by simpa using hp) (by simpa using hd) hc2).setInitState .force8bit2
  have h3 := (h2.force (e := e) (by decide) (by simpa using hp) (by simpa using hd) hc3).setInitState .force8bit3
  obtain ⟨h4, hpend, hg, hlow⟩ := h3.switch (e := e) (by simpa using hp) (by simpa using hd) hc
  refine ⟨lcdOf s.active (initHandshake s), ?_⟩
  simp only [initHandshake, forceNibble, lcdOf_setDw, lcdOf_setInitState, setInitState_active, writeCommand_active,
    delayInit_active] at h4 hpend hg hlow ⊢
  refine ⟨h4, hpend, hg, by simpa using hwf, by simp, rfl, by simp, by simpa using hE, by simpa using hlow⟩

/-- A clean init run leaves its controller fresh, from any state of it (R222, R226). -/
theorem initSequence_clean {c : Controller} {s : State} (hwf : wellFormedParams s.cfg = true) (hact : s.active = c)
    (hE : bitE s.cfg c ≠ 0) (hc : (initSequence s).err = false) :
    lcdOf c (initSequence s) = freshLcd (lcdOf c s).cgram := by
  subst hact
  rw [initSequence, setInitState_err] at hc
  obtain ⟨hhandshake, hmodes⟩ := initModes_clean hc
  obtain ⟨l, h4, hpend, hg, hears⟩ :=
    initHandshake_clean (s := setDw false (setInitState .uninitialized s)) hwf hE rfl hhandshake
  have hsink := (hmodes hears h4 hpend).sink
  rw [hg, lcdOf_setDw, lcdOf_setInitState] at hsink
  rw [initSequence, lcdOf_setInitState]
  exact hsink

theorem initSequence_err_of_clean {s : State} (ho : s.opened = true) (h : (initSequence s).err = false) :
    s.err = false := by
  obtain ⟨evs, -, hrun⟩ := initSequence_traced ho
  exact (Bool.or_eq_false_iff.mp (hrun.err.symm.trans h)).1

/-- The init runs of a CONNECT, without a failed write: each controller that exists is fresh. -/
theorem initControllers_clean {s : State} (hwf : wellFormedParams s.cfg = true) (hone : s.active = .one)
    (ho : s.opened = true) (hc : (initControllers s).err = false) :
    (initControllers s).lcd1 = freshLcd s.lcd1.cgram ∧
    (initControllers s).lcd2 = if dual s.cfg then freshLcd s.lcd2.cgram else s.lcd2 := by
  have hfirst := initSequence_clean hwf hone (bitE_ne_zero hwf (.inl rfl))
  have hspare : lcdOf .two (initSequence s) = lcdOf .two s := (initSequence_sparesOther hwf hone).sink
  cases hdual : dual s.cfg with
  | false =>
    simp only [initControllers, hdual, Bool.false_eq_true, if_false] at hc ⊢
    exact ⟨hfirst hc, hspare⟩
  | true =>
    simp only [initControllers, hdual, if_true, select_err, select_lcd1, select_lcd2] at hc ⊢
    generalize ht : initSequence s = t at hc hfirst hspare
    have hcfg : (select .two t).cfg = s.cfg := by simp [← ht]
    have hopen : (select .two t).opened = true := by simpa [← ht] using ho
    have hsecond := initSequence_clean (c := .two) (hcfg ▸ hwf) rfl (hcfg ▸ bitE_ne_zero hwf (.inr hdual)) hc
    have hspare2 : lcdOf .one (initSequence (select .two t)) = lcdOf .one (select .two t) :=
      (initSequence_sparesOther (c := .two) (hcfg ▸ hwf) rfl).sink
    rw [lcdOf_select] at hsecond hspare2
    rw [hspare] at hsecond
    have hclean : (select .two t).err = false := initSequence_err_of_clean hopen hc
    exact ⟨hspare2.trans (hfirst hclean), hsecond⟩

/-- Settles O31: after the opening a CONNECT is its init runs. -/
theorem cleanConnectInitialisesEveryController : Obligations.CleanConnectInitialisesEveryController := by
  intro s hwf he
  have hx : exec .connect s = .next (connectNow s) := congrArg Host.Outcome.next (if_pos he)
  exact ⟨_, hx, fun hc => initControllers_clean (s := connectStart s) hwf rfl rfl hc⟩

/-! ## CONNECT: the latches when every write succeeds (R132, R138) -/

theorem AnswersOk.split {k n : Nat} {s : State} (h : AnswersOk (k + n) s) :
    ∃ rest, s.oracle = List.replicate n true ++ rest ∧ rest.take k = List.replicate k true := by
  refine ⟨s.oracle.drop n, ?_, ?_⟩
  · have hfront : s.oracle.take n = List.replicate n true := by
      have hcut := congrArg (List.take n) h
      rwa [List.take_take, List.take_replicate, Nat.min_eq_left (Nat.le_add_left n k)] at hcut
    rw [← hfront, List.take_append_drop]
  · have hcut := congrArg (List.drop n) h
    rwa [List.drop_take, List.drop_replicate, Nat.add_sub_cancel] at hcut

/-- From `s` to `t` on one controller with Enable pin `e`: the latches `ls`; the port then shows `en` and `n`, and the
oracle's next `k` answers are success. -/
structure LatchedTo (e k : Nat) (en : Bool) (n : Nibble) (ls : List Latch) (s t : State) : Prop where
  latching : Latching ls s t
  active : t.active = s.active
  opened : t.opened = true
  shows : Shows e en n t
  answers : AnswersOk k t

/-- A command's latch. -/
abbrev commandLatch (c : Controller) (n : Nibble) : Latch := { controller := c, rs := false, nibble := n }

/-- The stray latch of a controller whose Enable is high when its transfer begins (R226). -/
abbrev strayLatch (en : Bool) (c : Controller) (n : Nibble) : List Latch := if en then [commandLatch c n] else []

section LatchedTo
variable {e k : Nat} {en : Bool} {n : Nibble} {ls : List Latch} {s t : State}

/-- A part that makes no Port write. -/
theorem LatchedTo.silent {u : State} (h : LatchedTo e k en n ls s t) (hl : Latching [] t u) (hact : u.active = t.active)
    (hopen : u.opened = t.opened) (hcached : u.cached = t.cached) (horacle : u.oracle = t.oracle) :
    LatchedTo e k en n ls s u where
  latching := h.latching.silent hl
  active := hact.trans h.active
  opened := hopen.trans h.opened
  shows := ⟨by rw [hcached, h.shows.enable], by rw [hl.cfg, hcached, h.shows.nibble]⟩
  answers := by rw [AnswersOk, horacle, h.answers]

theorem LatchedTo.setRs (h : LatchedTo e k en n ls s t) (v : Byte) : LatchedTo e k en n ls s (Machine.setRs v t) :=
  h.silent (.of_same rfl rfl rfl) rfl rfl rfl rfl

theorem LatchedTo.setDw (h : LatchedTo e k en n ls s t) (b : Bool) : LatchedTo e k en n ls s (Machine.setDw b t) :=
  h.silent (.of_same rfl rfl rfl) rfl rfl rfl rfl

theorem LatchedTo.setInitState (h : LatchedTo e k en n ls s t) (i : InitState) :
    LatchedTo e k en n ls s (Machine.setInitState i t) :=
  h.silent (.of_same rfl rfl rfl) rfl rfl rfl rfl

theorem LatchedTo.delay (h : LatchedTo e k en n ls s t) : LatchedTo e k en n ls s (delayInit t) :=
  h.silent (delayInit_latching t) rfl rfl rfl rfl

variable (hwf : wellFormedParams s.cfg = true) (hp : TransferPins s.cfg s.active e)
include hwf hp

/-- Step 1 of a command (R112): Enable low, with a stray latch where it was high. -/
theorem LatchedTo.lower (h : LatchedTo e (k + 1) en n ls s t) :
    LatchedTo e k false n (ls ++ strayLatch en s.active n) s (pwControl 0 t) := by
  obtain ⟨hl, hact, ho, hshow, hans⟩ := h
  obtain ⟨rest, horacle, hrest⟩ := hans.split
  have hok : nextAnswer t = true := by simp [nextAnswer, horacle]
  have hcfg := hl.cfg
  obtain ⟨hrun, hshow'⟩ := pwControl_latching (hcfg ▸ hwf) (by rw [hcfg, hact]; exact hp) ho hshow (d := 0) (r := false)
    (up := false) (by simp)
  rw [hok, hact] at hrun
  rw [hok] at hshow'
  refine ⟨hl.trans (by simpa using hrun), by simpa using hact, by simpa using ho, hshow', ?_⟩
  rw [AnswersOk, pwControl, pw_oracle ho, horacle]
  exact hrest

/-- A strobe with RS low latches its nibble. -/
theorem LatchedTo.strobe (h : LatchedTo e (k + 3) false n ls s t) (hr : t.rs = 0) (m : Nibble) :
    LatchedTo e k false m (ls ++ [commandLatch s.active m]) s (Machine.strobe m t) := by
  obtain ⟨hl, hact, ho, hshow, hans⟩ := h
  obtain ⟨rest, horacle, hrest⟩ := hans.split
  have hcfg := hl.cfg
  obtain ⟨hrun, hshow', horacle'⟩ := strobe_latching (hcfg ▸ hwf) (by rw [hcfg, hact]; exact hp) ho hshow (r := false)
    hr (rest := rest) horacle m
  rw [hact] at hrun
  exact ⟨hl.trans hrun, by simpa using hact, by simpa using ho, hshow', by rw [AnswersOk, horacle', hrest]⟩

/-- A command of an init run while `DW` is false, and the `INIT_STATE` it enters: one nibble (R88, R112). -/
theorem LatchedTo.nibble (h : LatchedTo e (k + 4) en n ls s t) (hd : t.dw = false) (b : Byte) (i : InitState) :
    LatchedTo e k false (highNibble b) (ls ++ strayLatch en s.active n ++ [commandLatch s.active (highNibble b)]) s
      (Machine.setInitState i (writeCommand b t)) := by
  have hsend : writeCommand b t = Machine.setRs (bitRs t.cfg)
      (Machine.strobe (highNibble b) (pwControl 0 (Machine.setRs 0#8 t))) := by simp [writeCommand, sendByte, hd]
  rw [hsend]
  exact ((((h.setRs 0#8).lower hwf hp).strobe hwf hp (by simp) _).setRs _).setInitState i

/-- A command of an init run while `DW` is true, and the `INIT_STATE` it enters: two nibbles. -/
theorem LatchedTo.byte (h : LatchedTo e (k + 7) false n ls s t) (hd : t.dw = true) (b : Byte) (i : InitState) :
    LatchedTo e k false (lowNibble b)
      (ls ++ [commandLatch s.active (highNibble b), commandLatch s.active (lowNibble b)]) s
      (Machine.setInitState i (writeCommand b t)) := by
  have hsend : writeCommand b t = Machine.setRs (bitRs t.cfg) (Machine.strobe (lowNibble b)
      (Machine.strobe (highNibble b) (pwControl 0 (Machine.setRs 0#8 t)))) := by simp [writeCommand, sendByte, hd]
  have hlow := (h.setRs 0#8).lower hwf hp
  rw [show strayLatch false s.active n = [] from rfl, List.append_nil] at hlow
  have hboth := (hlow.strobe hwf hp (by simp) (highNibble b)).strobe hwf hp (by simp) (lowNibble b)
  rw [List.append_assoc] at hboth
  rw [hsend]
  exact (hboth.setRs _).setInitState i

/-- The handshake of an init run latches 3, 3, 3 and 2. -/
theorem LatchedTo.handshake (h : LatchedTo e (k + 16) en n ls s t) (hd : t.dw = false) :
    LatchedTo e k false 0x2 (ls ++ strayLatch en s.active n ++
      ([0x3, 0x3, 0x3, 0x2] : List Nibble).map (commandLatch s.active)) s (initHandshake t) := by
  have h1 := (h.nibble (k := k + 12) hwf hp hd (nibbleByte force8bitNibble) .force8bit1).delay
  have h2 := h1.nibble (k := k + 8) hwf hp (by simpa using hd) (nibbleByte force8bitNibble) .force8bit2
  have h3 := h2.nibble (k := k + 4) hwf hp (by simpa using hd) (nibbleByte force8bitNibble) .force8bit3
  have h4 := (h3.nibble hwf hp (by simpa using hd) (nibbleByte switch4bitNibble) .switch4bit).setDw true
  have hls : ls ++ strayLatch en s.active n ++ [commandLatch s.active 0x3] ++ [] ++ [commandLatch s.active 0x3] ++ [] ++
      [commandLatch s.active 0x3] ++ [] ++ [commandLatch s.active 0x2] = ls ++ strayLatch en s.active n ++
      ([0x3, 0x3, 0x3, 0x2] : List Nibble).map (commandLatch s.active) := by simp
  exact hls ▸ h4

/-- The mode commands of an init run latch 28 08 01 06 0C, the high nibble of each first. -/
theorem LatchedTo.modes (h : LatchedTo e (k + 35) false n ls s t) (hd : t.dw = true) :
    LatchedTo e k false 0xC (ls ++ ([0x2, 0x8, 0x0, 0x8, 0x0, 0x1, 0x0, 0x6, 0x0, 0xC] : List Nibble).map
      (commandLatch s.active)) s (initModes t) := by
  have h1 := h.byte (k := k + 28) hwf hp hd functionSetByte .functionSet
  have h2 := h1.byte (k := k + 21) hwf hp (by simpa using hd) displayOffByte .displayOff
  have h3 := h2.byte (k := k + 14) hwf hp (by simpa using hd) clearDisplayByte .clearDisplay
  have h4 := h3.byte (k := k + 7) hwf hp (by simpa using hd) entryModeByte .entryMode
  have h5 := h4.byte hwf hp (by simpa using hd) displayOnByte .displayOn
  simp only [List.append_assoc] at h5
  exact h5

end LatchedTo

/-- An init run whose writes all succeed latches R132's nibbles, after a stray one where Enable is high. -/
theorem initSequence_latching {c : Controller} {e k : Nat} {en : Bool} {n : Nibble} {s : State}
    (hwf : wellFormedParams s.cfg = true) (hact : s.active = c) (hp : TransferPins s.cfg c e) (ho : s.opened = true)
    (hs : Shows e en n s) (ha : AnswersOk (k + 51) s) :
    LatchedTo e k false 0xC (strayLatch en c n ++ initLatches c) s (initSequence s) := by
  subst hact
  have hstart : LatchedTo e (k + 51) en n [] s s := ⟨.of_same rfl rfl rfl, rfl, ho, hs, ha⟩
  have hrun := ((((hstart.setInitState .uninitialized).setDw false).handshake (k := k + 35) hwf hp rfl).modes hwf hp
    (by simp [initHandshake])).setInitState .initReady
  rw [List.nil_append, List.append_assoc] at hrun
  exact hrun

theorem strayLatch_eq {p : Params} {c : Controller} {e : Nat} (h : TransferPins p c e) (v : Byte) (n : Nibble) :
    strayLatch (v.getLsbD e) c n = if v &&& bitE p c = 0 then [] else [commandLatch c n] := by
  have hlow := enable_low_iff h v
  cases hb : v.getLsbD e with
  | false => rw [if_pos (hlow.mpr hb)]; rfl
  | true => rw [if_neg (fun h0 => by simp [hlow.mp h0] at hb)]; rfl

/-- The init runs of a CONNECT whose writes all succeed (R131, R132, R226). -/
theorem initControllers_latching {s : State} (hwf : wellFormedParams s.cfg = true) (hone : s.active = .one)
    (ho : s.opened = true) (ha : AnswersOk (if dual s.cfg then 102 else 51) s) :
    Latching ((if s.cached &&& bitE s.cfg .one = 0 then [] else [commandLatch .one (dataNibble s.cfg s.cached)]) ++
      initLatches .one ++
      (if dual s.cfg then
        (if s.cached &&& bitE s.cfg .two = 0 then [] else [commandLatch .two 0xC]) ++ initLatches .two
      else [])) s (initControllers s) := by
  have hp1 := transferPins_of_wellFormed hwf (c := .one) rfl
  have hs1 : Shows s.cfg.pins.e1 (s.cached.getLsbD s.cfg.pins.e1) (dataNibble s.cfg s.cached) s := ⟨rfl, rfl⟩
  have hspare : (initSequence s).cached &&& bitE s.cfg .two = s.cached &&& bitE s.cfg .two :=
    (initSequence_sparesOther hwf hone).enable
  unfold initControllers
  rw [← strayLatch_eq hp1]
  cases hd : dual s.cfg with
  | false =>
    rw [hd] at ha
    have hrun := (initSequence_latching (k := 0) hwf hone hp1 ho hs1 ha).latching
    simpa using hrun
  | true =>
    rw [hd] at ha
    obtain ⟨e, he⟩ := e2_present_of_dual hwf hd
    have hp2 := transferPins_of_wellFormed hwf (c := .two) he
    have hfirst := initSequence_latching (k := 51) hwf hone hp1 ho hs1 ha
    generalize ht : initSequence s = t at hfirst hspare
    have hcfg : (select .two t).cfg = s.cfg := hfirst.latching.cfg
    have hs2 : Shows e (t.cached.getLsbD e) 0xC (select .two t) := ⟨rfl, hfirst.shows.nibble⟩
    have hsecond := (initSequence_latching (s := select .two t) (c := .two) (k := 0) (hcfg ▸ hwf) rfl (hcfg ▸ hp2)
      hfirst.opened hs2 hfirst.answers).latching
    have hboth := (hfirst.latching.silent (select_latching .two t)).trans hsecond
    have hrun := hboth.silent (select_latching .one _)
    rw [strayLatch_eq hp2, hspare] at hrun
    exact hrun

/-- Settles O32: a CONNECT is its init runs from the opened Port, whose byte is `PORT_INIT`. -/
theorem cleanConnectLatches : Obligations.CleanConnectLatches := by
  intro s hwf he ha
  have hx : exec .connect s = .next (connectNow s) := congrArg Host.Outcome.next (if_pos he)
  have hopen : Latching [] s (connectStart s) := ⟨rfl, [.opened], rfl, rfl, rfl⟩
  have hruns := initControllers_latching (s := connectStart s) hwf rfl rfl ha
  obtain ⟨-, evs, hlog, hls, -⟩ := hopen.trans hruns
  exact ⟨_, evs, hx, hlog, hls⟩

end Sys2Proof.Machine
end

section
/-! SUPPORT. Proofs of the family 30_encoding. A frame that has its opcode's fixed part decodes to `decodeOperands`, so
what frames decode to is one case analysis over the opcodes. An LCD row is the transfer `rowTransfer`; the bytes it puts
on the port are followed write by write through the levels they carry (`PortBytes`). -/
namespace Sys2Proof.Machine

/-! ## Host frames (R81 to R85, R93) -/

/-- A frame with its opcode's fixed part decodes to what its operands stand for. -/
theorem decodeFrame_of_long {opcode : Byte} {args : List Byte} (h : fixedLength opcode.toNat ≤ args.length + 1) :
    decodeFrame (opcode :: args) = .ok (decodeOperands opcode args) :=
  if_neg (Nat.not_lt.mpr h)

theorem decodeFrame_of_short {opcode : Byte} {args : List Byte} (h : args.length + 1 < fixedLength opcode.toNat) :
    decodeFrame (opcode :: args) = .error (.shortFrame opcode) :=
  if_pos h

/-- Only a frame with its opcode's fixed part decodes. -/
theorem operands_of_decodeFrame {frame : List Byte} {i : Instr} (h : decodeFrame frame = .ok i) :
    ∃ opcode args, fixedLength opcode.toNat ≤ args.length + 1 ∧ decodeOperands opcode args = i := by
  cases frame with
  | nil => exact absurd h (by simp [decodeFrame])
  | cons opcode args =>
    by_cases hs : args.length + 1 < fixedLength opcode.toNat
    · rw [decodeFrame_of_short hs] at h
      exact absurd h (by simp)
    · rw [decodeFrame_of_long (Nat.not_lt.mp hs)] at h
      exact ⟨opcode, args, Nat.not_lt.mp hs, Except.ok.inj h⟩

/-- PRINT's payload runs to the end of the frame (R81). -/
theorem decodeFrame_print (line : Byte) (text : List Byte) :
    decodeFrame (0x03 :: line :: text) = .ok (.print line text) :=
  decodeFrame_of_long (opcode := 0x03) (Nat.le_add_left 2 text.length)

theorem decodeOperands_reserved {opcode : Byte} (h : 0x0E ≤ opcode.toNat) (args : List Byte) :
    decodeOperands opcode args = .reserved opcode := by
  unfold decodeOperands
  split
  case h_15 => rfl -- the opcodes not assigned
  all_goals omega

theorem patternOk_iff (pattern : List Byte) : patternOk pattern = true ↔ pattern.length = 8 := beq_iff_eq

theorem reservedOk_iff (opcode : Byte) : reservedOk opcode = true ↔ 0x0E ≤ opcode.toNat := decide_eq_true_iff

/-- The operands of a frame with its fixed part are those of a well-formed host operation. Three operations could be
ill-formed: SET_CGRAM and SET_CGRAM_AUTO find 8 rows there, and only the opcodes not assigned are reserved. -/
theorem decodeOperands_wellFormed {opcode : Byte} {args : List Byte} (h : fixedLength opcode.toNat ≤ args.length + 1) :
    (decodeOperands opcode args).wellFormed = true ∧ (decodeOperands opcode args).layer = .hostFrame := by
  have pattern {rows : List Byte} (hrows : 8 ≤ rows.length) : patternOk (rows.take 8) = true := by
    rw [patternOk_iff, List.length_take_of_le hrows]
  unfold decodeOperands
  split
  case h_8 hop => -- SET_CGRAM
    rw [hop, fixedLength] at h
    exact ⟨pattern (by rw [List.length_drop]; omega), rfl⟩
  case h_9 hop => -- SET_CGRAM_AUTO
    rw [hop, fixedLength] at h
    exact ⟨pattern (by omega), rfl⟩
  case h_15 => -- the opcodes not assigned
    simp only [imp_false] at *
    exact ⟨(reservedOk_iff opcode).mpr (by omega), rfl⟩
  all_goals exact ⟨rfl, rfl⟩

/-- What an opcode but PRINT's reads of its operands lies in the fixed part (R85, R93). -/
theorem decodeOperands_append {opcode : Byte} {args : List Byte} (hp : opcode ≠ 0x03)
    (h : fixedLength opcode.toNat ≤ args.length + 1) (extra : List Byte) :
    decodeOperands opcode (args ++ extra) = decodeOperands opcode args := by
  have operand {k : Nat} (hk : k < args.length) : (args ++ extra).getD k 0 = args.getD k 0 :=
    List.getD_append args extra 0 k hk
  unfold decodeOperands
  split
  case h_4 hop => exact absurd (BitVec.eq_of_toNat_eq hop) hp -- PRINT
  case h_5 hop | h_7 hop => -- CLEAR_LINE, BACKLIGHT
    rw [hop, fixedLength] at h
    rw [operand (by omega)]
  case h_8 hop => -- SET_CGRAM
    rw [hop, fixedLength] at h
    rw [operand (by omega), List.drop_append_of_le_length (by omega),
      List.take_append_of_le_length (by rw [List.length_drop]; omega)]
  case h_9 hop => -- SET_CGRAM_AUTO
    rw [hop, fixedLength] at h
    rw [List.take_append_of_le_length (by omega)]
  case h_14 hop => -- BARGRAPH
    rw [hop, fixedLength] at h
    rw [operand (by omega), operand (by omega)]
  all_goals rfl

/-- Settles O4: a frame that decodes has its opcode's fixed part. -/
theorem framesDecodeToWellFormedHostOperations : Obligations.FramesDecodeToWellFormedHostOperations := by
  intro f i h
  obtain ⟨opcode, args, hlen, hi⟩ := operands_of_decodeFrame h
  exact hi ▸ decodeOperands_wellFormed hlen

/-- Settles O5: every opcode but PRINT's reads its fixed part alone. -/
theorem extraOperandBytesAreIgnored : Obligations.ExtraOperandBytesAreIgnored := by
  refine ⟨fun opcode args extra hp h => ?_, decodeFrame_print⟩
  have hlong : fixedLength opcode.toNat ≤ (args ++ extra).length + 1 := by
    rw [List.length_append]
    omega
  rw [decodeFrame_of_long hlong, decodeFrame_of_long h, decodeOperands_append hp h]

/-! ## Encodings (R82 to R88, R114) -/

theorem enableOf_enableByte (enable : Bool) : enableOf (enableByte enable) = enable := by
  cases enable <;> rfl

theorem cgramAddressOf_setWidth (a : BitVec 6) : cgramAddressOf (a.setWidth 8) = a := by
  revert a
  decide

theorem decodeLcdCommand_setDdramByte (a : BitVec 7) :
    decodeLcdCommand (setDdramByte a) = .ok (.lcdSetDdramAddr a) := by
  revert a
  decide

theorem decodeLcdCommand_setCgramByte (a : BitVec 6) :
    decodeLcdCommand (setCgramByte a) = .ok (.lcdSetCgramAddr a) := by
  revert a
  decide

/-- Settles O2: a row without operands is decoded by computing; an operand is read back whole, and the frame of a
well-formed instruction has its opcode's fixed part. -/
theorem decodeOfEncodeIsTheInstruction : Obligations.DecodeOfEncodeIsTheInstruction := by
  intro i h
  cases i with
  | print line text => exact decodeFrame_print line text
  | backlight enable => exact congrArg (fun b => Except.ok (Instr.backlight b)) (enableOf_enableByte enable)
  | setCgram address pattern =>
    have hrows := (patternOk_iff pattern).mp h
    refine (decodeFrame_of_long (by simp [fixedLength, hrows])).trans ?_
    simp [decodeOperands, cgramAddressOf_setWidth, List.take_of_length_le hrows.le]
  | setCgramAuto pattern =>
    have hrows := (patternOk_iff pattern).mp h
    refine (decodeFrame_of_long (by simp [fixedLength, hrows])).trans ?_
    simp [decodeOperands, List.take_of_length_le hrows.le]
  | reserved opcode =>
    have hres := (reservedOk_iff opcode).mp h
    have hone := Laws.EncodedLength.fixedLength_reserved _ hres
    exact (decodeFrame_of_long hone.le).trans (congrArg Except.ok (decodeOperands_reserved hres []))
  | lcdSetDdramAddr a => exact decodeLcdCommand_setDdramByte a
  | lcdSetCgramAddr a => exact decodeLcdCommand_setCgramByte a
  | _ => rfl

theorem setDdramByte_extractLsb' {b : Byte} (h7 : b.getLsbD 7 = true) : setDdramByte (b.extractLsb' 0 7) = b := by
  revert b
  decide

theorem setCgramByte_extractLsb' {b : Byte} (h7 : ¬b.getLsbD 7 = true) (h6 : b.getLsbD 6 = true) :
    setCgramByte (b.extractLsb' 0 6) = b := by
  revert b
  decide

theorem encode_of_decodeLcdCommand {b : Byte} {i : Instr} (h : decodeLcdCommand b = .ok i) :
    encode i = [b] ∧ i.layer = .lcdCommand := by
  unfold decodeLcdCommand at h
  split_ifs at h with h7 h6 hb hb hb hb hb <;> cases h
  · exact ⟨congrArg (fun b => [b]) (setDdramByte_extractLsb' h7), rfl⟩
  · exact ⟨congrArg (fun b => [b]) (setCgramByte_extractLsb' h7 h6), rfl⟩
  all_goals exact ⟨hb ▸ rfl, rfl⟩

theorem encode_of_decodeLcdNibble {n : Nibble} {i : Instr} (h : decodeLcdNibble n = .ok i) :
    encode i = [n.setWidth 8] ∧ i.layer = .lcdNibble := by
  unfold decodeLcdNibble at h
  split_ifs at h with hn hn <;> cases h
  all_goals exact ⟨hn ▸ rfl, rfl⟩

/-- Settles O3: an address command carries its address in the bits below the leading 1; the other words are fixed. -/
theorem encodeOfDecodedLcdWordIsTheWord : Obligations.EncodeOfDecodedLcdWordIsTheWord :=
  ⟨fun _ _ => encode_of_decodeLcdCommand, fun _ _ => encode_of_decodeLcdNibble⟩

/-- Settles O1: each of the twelve words is decoded by computing. -/
theorem specWordsDecode : Obligations.SpecWordsDecode := by
  unfold Obligations.SpecWordsDecode
  decide

/-! ## The host's stream and a step (R81, R85) -/

theorem takeFrame_sendFrame_append (b : Byte) (f : List Byte) (rest : List HostByte) :
    takeFrame (sendFrame (b :: f) ++ rest) = some (b :: f, rest) := by
  induction f generalizing b with
  | nil => rfl
  | cons c f ih => simp [sendFrame, takeFrame, ih]

/-- Settles O6: by induction on the frame, whose last byte alone carries the flag. -/
theorem sentFramesAreCutOffWhole : Obligations.SentFramesAreCutOffWhole := by
  intro f rest hf
  obtain ⟨b, f, rfl⟩ := List.exists_cons_of_ne_nil hf
  exact takeFrame_sendFrame_append b f rest

section Accept
variable {s : State} {f : List Byte} {rest : List HostByte}

theorem accept_of_none (hf : takeFrame s.hostIn = none) : accept s = .idle := by
  simp only [accept, hf]

theorem accept_of_error (hf : takeFrame s.hostIn = some (f, rest)) {e : DecodeError} (hd : decodeFrame f = .error e) :
    accept s = .ignored { s with hostIn := rest } := by
  simp only [accept, hf, hd]

theorem accept_of_ok (hf : takeFrame s.hostIn = some (f, rest)) {i : Instr} (hd : decodeFrame f = .ok i) :
    accept s = .accepted i { s with hostIn := rest } := by
  simp only [accept, hf, hd]

end Accept

/-- Settles O7: the frame is accepted. -/
theorem stepRunsTheDecodedInstruction : Obligations.StepRunsTheDecodedInstruction := by
  intro s f rest i hwf hf hd
  simp only [step, hwf, if_true, accept_of_ok hf hd]

/-- Settles O8: nothing is accepted. -/
theorem stepWaitsForAFrame : Obligations.StepWaitsForAFrame := by
  intro s hwf hf
  simp only [step, hwf, if_true, accept_of_none hf]

/-- Settles O9: a short frame does not decode, so it is ignored. -/
theorem shortFramesAreConsumedWithoutEffect : Obligations.ShortFramesAreConsumedWithoutEffect := by
  intro s opcode args rest hwf hshort hf
  simp only [step, hwf, if_true, accept_of_error hf (decodeFrame_of_short hshort)]

/-! ## The result channel (R84) -/

/-- Settles O47: each of the four operations is one `returnByte`. -/
theorem queriesReturnOneByte : Obligations.QueriesReturnOneByte := by
  intro pattern s
  have returns (b : Byte) :
      { returnByte b s with results := s.results } = s ∧ (returnByte b s).results = s.results ++ [b] := ⟨rfl, rfl⟩
  exact ⟨⟨_, rfl, returns _⟩, ⟨_, rfl, returns _⟩, ⟨_, rfl, returns _⟩, ⟨_, rfl, returns _⟩⟩

@[simp] theorem pw_results (m d : Byte) (s : State) : (pw m d s).results = s.results := by
  obtain ⟨-, h⟩ | ⟨-, -, h⟩ | ⟨-, -, h⟩ := pw_cases m d s <;> simp [h]

section Results
variable (s : State)

@[simp] theorem pwControl_results (d : Byte) : (pwControl d s).results = s.results := pw_results _ _ _
@[simp] theorem strobe_results (n : Nibble) : (strobe n s).results = s.results := by simp [strobe]
@[simp] theorem sendByte_results (v : Byte) : (sendByte v s).results = s.results := by unfold sendByte; split <;> simp
@[simp] theorem writeCommand_results (c : Byte) : (writeCommand c s).results = s.results := by simp [writeCommand]
@[simp] theorem writeData_results (d : Byte) : (writeData d s).results = s.results := sendByte_results s d

theorem foldl_results {α : Type} {f : State → α → State} (hf : ∀ s a, (f s a).results = s.results) (l : List α) :
    (l.foldl f s).results = s.results := by
  induction l generalizing s with
  | nil => rfl
  | cons a rest ih => exact (ih (f s a)).trans (hf s a)

@[simp] theorem writeAllData_results (ds : List Byte) : (writeAllData ds s).results = s.results :=
  foldl_results s (fun t d => writeData_results t d) ds

theorem whenReady_results {f : State → State} (hf : (f s).results = s.results) :
    (whenReady f s).results = s.results := by
  unfold whenReady
  split
  · exact hf
  · rfl

theorem whenOpen_results {f : State → State} (hf : (f s).results = s.results) :
    (whenOpen f s).results = s.results := by
  unfold whenOpen
  split
  · exact hf
  · rfl

theorem Transfer.results {f : State → State} (hf : Transfer f) : (f s).results = s.results := by
  cases hf with
  | command c => exact writeCommand_results s c
  | switch c => exact writeCommand_results s c
  | data d => exact writeData_results s d

theorem printOp_results (line : Byte) (text : List Byte) : (printOp line text s).results = s.results :=
  whenReady_results s (by simp [printNow])

theorem clearDisplayNow_results : (clearDisplayNow s).results = s.results := by
  unfold clearDisplayNow
  split <;> simp

theorem setCgramOp_results (a : BitVec 6) (rows : List Byte) : (setCgramOp a rows s).results = s.results := by
  refine whenReady_results s ?_
  by_cases hd : dual s.cfg = true <;> simp [setCgramNow, programCgram, hd]

theorem initBargraphOp_results : (initBargraphOp s).results = s.results :=
  foldl_results s (fun t k => setCgramOp_results t (slotAddress k) (glyph k)) _

theorem backlightNow_results (level : Bool) : (backlightNow level s).results = s.results := by
  cases hbl : s.cfg.pins.bl with
  | none => simp only [backlightNow, hbl]
  | some pin => rw [backlightNow_eq_pw hbl, pw_results]

@[simp] theorem initSequence_results : (initSequence s).results = s.results := by
  simp [initSequence, initModes, initHandshake]

@[simp] theorem connectNow_results : (connectNow s).results = s.results := by
  by_cases hd : dual s.cfg = true <;> simp [connectNow, initControllers, hd]

@[simp] theorem disconnectNow_results : (disconnectNow s).results = s.results := closePort_results s

end Results

/-- Settles O48: no Port write returns a byte, and the operations besides the four are made of Port writes. -/
theorem onlyQueriesReturnResults : Obligations.OnlyQueriesReturnResults := by
  intro i s t hx
  by_cases hl : i.layer = .hostFrame
  · have mute {u : State} (hu : exec i s = .next u) (hr : u.results = s.results) : t.results = s.results :=
      Host.Outcome.next.inj (hu.symm.trans hx) ▸ hr
    cases i with
    | nop => exact .inl (mute rfl rfl)
    | connect => exact .inl (mute rfl (by split <;> simp))
    | disconnect => exact .inl (mute rfl (by split <;> simp))
    | print line text => exact .inl (mute rfl (printOp_results s line text))
    | clearLine line => exact .inl (mute rfl (printOp_results s line _))
    | clearDisplay => exact .inl (mute rfl (whenReady_results s (clearDisplayNow_results s)))
    | backlight enable => exact .inl (mute rfl (whenReady_results s (backlightNow_results s enable)))
    | setCgram address pattern => exact .inl (mute rfl (setCgramOp_results s address pattern))
    | setCgramAuto pattern => exact .inr (.inr (.inr (.inr ⟨pattern, rfl⟩)))
    | initBargraph => exact .inl (mute rfl (initBargraphOp_results s))
    | hasBacklight => exact .inr (.inl rfl)
    | getWidth => exact .inr (.inr (.inl rfl))
    | getHeight => exact .inr (.inr (.inr (.inl rfl)))
    | bargraph line value => exact .inl (mute rfl (printOp_results s line _))
    | reserved opcode => exact .inl (mute rfl rfl)
    | _ => simp [Instr.layer] at hl
  · obtain ⟨f, hf, hrow⟩ := exec_lcdRow hl
    exact .inl (Host.Outcome.next.inj ((hrow s).symm.trans hx) ▸ whenOpen_results s (hf.results s))

/-! ## The transfer an LCD row is (R80, R113, R114, R137) -/

theorem setDw_of_eq {s : State} {b : Bool} (h : s.dw = b) : setDw b s = s := by
  subst h
  rfl

theorem setRs_of_eq {s : State} {v : Byte} (h : s.rs = v) : setRs v s = s := by
  subst h
  rfl

/-- The RS register during an LCD row: low for a command, as it is for data. -/
def rowStart (i : Instr) (s : State) : State := setRs (if i.layer = .lcdData then s.rs else 0#8) s

/-- What an LCD row does on an open Port: its byte goes out, the RS register is restored, and SWITCH_4BIT sets `DW`. -/
def rowTransfer (i : Instr) (s : State) : State :=
  setDw (if i = .lcdSwitch4bit then true else s.dw)
    (setRs (if i.layer = .lcdData then s.rs else bitRs s.cfg) (sendByte (transferByte i) (rowStart i s)))

theorem rowStart_rs {i : Instr} {s : State} (h : i.layer = .lcdData → s.rs = bitRs s.cfg) :
    (rowStart i s).rs = if decide (i.layer = .lcdData) then bitRs s.cfg else 0 := by
  by_cases hd : i.layer = .lcdData <;> simp [rowStart, hd, h]

theorem exec_rowTransfer {i : Instr} {s : State} (hl : i.layer ≠ .hostFrame) (ho : s.opened = true) :
    exec i s = .next (rowTransfer i s) := by
  have command {b : Byte} : whenOpen (writeCommand b) s = setDw s.dw (writeCommand b s) := by
    rw [whenOpen_of_opened ho, setDw_of_eq (writeCommand_dw s b)]
  cases i with
  | lcdSetDdramAddr | lcdSetCgramAddr | lcdFunctionSet | lcdDisplayOff | lcdClearDisplay | lcdEntryMode | lcdDisplayOn
  | lcdForce8bit => exact congrArg Host.Outcome.next command
  | lcdSwitch4bit => exact congrArg Host.Outcome.next (whenOpen_of_opened ho _)
  | lcdData d =>
    have data : whenOpen (writeData d) s = setDw s.dw (setRs s.rs (sendByte d (setRs s.rs s))) := by
      rw [whenOpen_of_opened ho, setRs_of_eq rfl, setRs_of_eq (sendByte_rs s d), setDw_of_eq (sendByte_dw s d)]
      rfl
    exact congrArg Host.Outcome.next data
  | _ => exact absurd rfl hl

/-- Settles O20: a row is one byte sent between two settings of the RS register, which are no Port writes. -/
theorem lcdTransfersComplete : Obligations.LcdTransfersComplete := by
  intro i s hl ho
  obtain ⟨⟨hcfg, heng, hinit, -, hopen, hin, hres⟩, evs, hlog, hn, hw, herr⟩ :=
    sendByte_run (s := rowStart i s) ho (transferByte i)
  have hact := sendByte_active (rowStart i s) (transferByte i)
  exact ⟨_, evs, exec_rowTransfer hl ho, hlog, hw, hn, herr, rfl, rfl, hcfg, heng, hinit, hact, hopen, hin, hres⟩

/-! ## The bytes a transfer puts on the port (R89, R111, R112) -/

/-- What a port byte carries to a controller (R59, R74). -/
structure PinLevels where
  enable : Bool
  readWrite : Bool
  select : Bool
  nibble : Nibble

/-- The levels of the port byte `v` for controller `c`. -/
def portLevels (p : Params) (c : Controller) (v : Byte) : PinLevels where
  enable := v &&& bitE p c != 0
  readWrite := v &&& bitRw p != 0
  select := rsLevel p v
  nibble := dataNibble p v

theorem and_pinBit_ne_zero {i : Nat} (hi : i < 8) (v : Byte) : (v &&& pinBit i != 0) = v.getLsbD i := by
  have hz := and_pinBit_eq_zero hi v
  cases hb : v.getLsbD i <;> simpa [hb] using hz

theorem portLevels_eq {p : Params} {c : Controller} {e : Nat} (h : TransferPins p c e) (v : Byte) :
    portLevels p c v = ⟨v.getLsbD e, v.getLsbD p.pins.rw, v.getLsbD p.pins.rs, dataNibble p v⟩ := by
  rw [portLevels, h.bit, bitRw, and_pinBit_ne_zero h.e_lt, and_pinBit_ne_zero h.rw_lt, rsLevel_eq h]

/-- A control write sets Enable and RS, puts RW low and leaves the nibble (R26). -/
theorem portLevels_control {p : Params} {c : Controller} {e : Nat} (h : TransferPins p c e) (up r : Bool) (v : Byte) :
    portLevels p c (mergeByte (controlMask p c) v ((if r then bitRs p else 0) ||| (if up then bitE p c else 0))) =
      ⟨up, false, r, dataNibble p v⟩ := by
  obtain ⟨hl, hk⟩ := control_levels h up r v
  rw [portLevels_eq h, hl.enable, hl.readWrite, hl.select, dataNibble_congr h hk]

/-- A data write sets the nibble and leaves the other levels (R27). -/
theorem portLevels_data {p : Params} {c : Controller} {e : Nat} (h : TransferPins p c e) (n : Nibble) (v : Byte) :
    portLevels p c (mergeByte (dataMask p) v (dbus p n)) = { portLevels p c v with nibble := n } := by
  obtain ⟨hn, hk⟩ := data_levels h n v
  rw [portLevels_eq h, portLevels_eq h, hn, hk e h.e_lt h.e_d4 h.e_d5 h.e_d6 h.e_d7,
    hk _ h.rw_lt h.rw_d4 h.rw_d5 h.rw_d6 h.rw_d7, hk _ h.rs_lt h.rs_d4 h.rs_d5 h.rs_d6 h.rs_d7]

/-- Between `s` and `t` the bytes written carry the levels `ws` to the active controller, all with success, and keep the
pins that a transfer keeps; the port now carries `w`, and the oracle's next `k` answers are success. -/
structure PortBytes (ws : List PinLevels) (w : PinLevels) (k : Nat) (s t : State) : Prop where
  cfg : t.cfg = s.cfg
  active : t.active = s.active
  opened : t.opened = true
  answers : AnswersOk k t
  now : portLevels s.cfg s.active t.cached = w
  kept : t.cached &&& keptPins s.cfg s.active = s.cached &&& keptPins s.cfg s.active
  bytes : ∃ b : List Byte, t.log = s.log ++ b.map (fun v => .write v true) ∧ b.map (portLevels s.cfg s.active) = ws ∧
    (∀ v ∈ b, v &&& keptPins s.cfg s.active = s.cached &&& keptPins s.cfg s.active) ∧
    (b.getLast?).getD s.cached = t.cached

section PortBytes
variable {ws : List PinLevels} {w : PinLevels} {k : Nat} {s t : State}

theorem PortBytes.start (ho : s.opened = true) (ha : AnswersOk k s) :
    PortBytes [] (portLevels s.cfg s.active s.cached) k s s :=
  ⟨rfl, rfl, ho, ha, rfl, rfl, [], by simp, rfl, by simp, rfl⟩

/-- One Port write that keeps the pins a transfer keeps. -/
theorem PortBytes.write {m d : Byte} {w' : PinLevels} (h : PortBytes ws w (k + 1) s t)
    (hm : m &&& keptPins s.cfg s.active = keptPins s.cfg s.active)
    (hw : portLevels s.cfg s.active (mergeByte m t.cached d) = w') : PortBytes (ws ++ [w']) w' k s (pw m d t) := by
  obtain ⟨hcfg, hact, ho, ha, -, hkept, b, hlog, hws, hb, hlast⟩ := h
  obtain ⟨rest, horacle, hrest⟩ := ha.split
  have hok : nextAnswer t = true := by simp [nextAnswer, horacle]
  have hport := pw_cached ho m d
  have hwrite := pw_log ho m d
  rw [hok, if_pos rfl] at hport
  rw [hok] at hwrite
  have hmerge := (mergeByte_kept hm t.cached d).trans hkept
  refine ⟨by simpa using hcfg, by simpa using hact, by simpa using ho, ?_, hport ▸ hw, hport ▸ hmerge,
    b ++ [mergeByte m t.cached d], ?_, ?_, ?_, ?_⟩
  · rw [AnswersOk, pw_oracle ho, horacle]
    exact hrest
  · rw [hwrite, hlog, List.map_append, List.append_assoc]
    rfl
  · rw [List.map_append, hws, List.map_singleton, hw]
  · intro v hv
    obtain hv | hv := List.mem_append.mp hv
    · exact hb v hv
    · rw [List.mem_singleton.mp hv, hmerge]
  · rw [List.getLast?_concat, hport]
    rfl

variable {e : Nat} {r : Bool} (hp : TransferPins s.cfg s.active e)
include hp

theorem PortBytes.control {d : Byte} {up : Bool} (h : PortBytes ws w (k + 1) s t)
    (hd : d = (if r then bitRs s.cfg else 0) ||| (if up then bitE s.cfg s.active else 0)) :
    PortBytes (ws ++ [⟨up, false, r, w.nibble⟩]) ⟨up, false, r, w.nibble⟩ k s (pwControl d t) := by
  have hlevels := portLevels_control hp up r t.cached
  rw [← hd, show dataNibble s.cfg t.cached = w.nibble from congrArg PinLevels.nibble h.now] at hlevels
  have hwrite := h.write (controlMask_keeps s.cfg s.active) hlevels
  rwa [pwControl, h.cfg, h.active]

theorem PortBytes.data (h : PortBytes ws w (k + 1) s t) (n : Nibble) :
    PortBytes (ws ++ [{ w with nibble := n }]) { w with nibble := n } k s (pw (dataMask s.cfg) (dbus s.cfg n) t) :=
  h.write (dataMask_keeps s.cfg s.active) ((portLevels_data hp n t.cached).trans (by rw [h.now]))

/-- A strobe: Enable high, the nibble, Enable low (R111). -/
theorem PortBytes.strobe (h : PortBytes ws w (k + 3) s t) (hr : t.rs = if r then bitRs s.cfg else 0) (n : Nibble) :
    PortBytes (ws ++ [⟨true, false, r, w.nibble⟩, ⟨true, false, r, n⟩, ⟨false, false, r, n⟩]) ⟨false, false, r, n⟩ k s
      (Machine.strobe n t) := by
  have hup := h.control hp (d := t.rs ||| bitE s.cfg s.active) (r := r) (up := true) (by rw [hr]; rfl)
  have hdown := (hup.data hp n).control hp (d := t.rs) (r := r) (up := false) (by simp [hr])
  rw [Machine.strobe, h.cfg, h.active]
  simpa using hdown

/-- The byte with `DW` false: Enable low, then the high nibble (R112). -/
theorem PortBytes.halfByte (h : PortBytes [] w (k + 4) s t) (hr : t.rs = if r then bitRs s.cfg else 0)
    (hd : t.dw = false) (v : Byte) :
    PortBytes [⟨false, false, r, w.nibble⟩, ⟨true, false, r, w.nibble⟩, ⟨true, false, r, highNibble v⟩,
      ⟨false, false, r, highNibble v⟩] ⟨false, false, r, highNibble v⟩ k s (sendByte v t) := by
  have hlow := h.control hp (d := t.rs) (r := r) (up := false) (by simp [hr])
  have hhigh := hlow.strobe hp (by simpa using hr) (highNibble v)
  simpa [sendByte, hd] using hhigh

/-- The byte with `DW` true: Enable low, then both nibbles (R112). -/
theorem PortBytes.fullByte (h : PortBytes [] w (k + 7) s t) (hr : t.rs = if r then bitRs s.cfg else 0)
    (hd : t.dw = true) (v : Byte) :
    PortBytes [⟨false, false, r, w.nibble⟩, ⟨true, false, r, w.nibble⟩, ⟨true, false, r, highNibble v⟩,
      ⟨false, false, r, highNibble v⟩, ⟨true, false, r, highNibble v⟩, ⟨true, false, r, lowNibble v⟩,
      ⟨false, false, r, lowNibble v⟩] ⟨false, false, r, lowNibble v⟩ k s (sendByte v t) := by
  have hlow := h.control hp (d := t.rs) (r := r) (up := false) (by simp [hr])
  have hhigh := hlow.strobe hp (by simpa using hr) (highNibble v)
  have hboth := hhigh.strobe hp (by simpa using hr) (lowNibble v)
  simpa [sendByte, hd] using hboth

end PortBytes

/-- An LCD row begins and ends with register settings, which put nothing on the port. -/
theorem rowStart_portBytes {s : State} {k : Nat} (ho : s.opened = true) (ha : AnswersOk k s) (i : Instr) :
    PortBytes [] (portLevels s.cfg s.active s.cached) k s (rowStart i s) := { PortBytes.start ho ha with }

theorem PortBytes.row {ws : List PinLevels} {w : PinLevels} {k : Nat} {s : State} {i : Instr}
    (h : PortBytes ws w k s (sendByte (transferByte i) (rowStart i s))) : PortBytes ws w k s (rowTransfer i s) :=
  { h with }

/-- Settles O23: the levels of the seven bytes, column by column. -/
theorem transferPortBytes : Obligations.TransferPortBytes := by
  intro i s hl hwf ho hd hrs hE ha
  obtain ⟨e, he⟩ := enablePin_of_bitE hE
  have hp := transferPins_of_wellFormed hwf he
  have hstart := rowStart_portBytes (k := 0 + 7) ho ha i
  obtain ⟨-, -, -, -, -, -, b, hlog, hws, hb, hlast⟩ :=
    (hstart.fullByte hp (rowStart_rs fun _ => hrs) hd (transferByte i)).row
  have column {α : Type} (f : PinLevels → α) := congrArg (List.map f) hws
  simp only [List.map_map] at column
  have hend : b.getLast? = some (rowTransfer i s).cached := by
    cases b with
    | nil => cases hws
    | cons v b => simpa [List.getLast?_cons] using hlast
  exact ⟨_, b, exec_rowTransfer hl ho, hlog, column PinLevels.enable, column PinLevels.readWrite,
    column PinLevels.select, column PinLevels.nibble, hb, hend⟩

/-- Settles O24: the levels of the four bytes, column by column. -/
theorem handshakePortBytes : Obligations.HandshakePortBytes := by
  intro i s hl hwf ho hd hE ha
  obtain ⟨e, he⟩ := enablePin_of_bitE hE
  have hp := transferPins_of_wellFormed hwf he
  have hstart := rowStart_portBytes (k := 0 + 4) ho ha i
  obtain ⟨-, -, -, -, -, -, b, hlog, hws, -⟩ :=
    (hstart.halfByte hp (rowStart_rs (by simp [hl])) hd (transferByte i)).row
  have column {α : Type} (f : PinLevels → α) := congrArg (List.map f) hws
  simp only [List.map_map, hl] at column
  exact ⟨_, b, exec_rowTransfer (by simp [hl]) ho, hlog, column PinLevels.enable, column PinLevels.readWrite,
    column PinLevels.select, column PinLevels.nibble, fun h => h ▸ rfl, fun h => h ▸ rfl⟩

end Sys2Proof.Machine
end

section
/-! SUPPORT. Proofs of the family 41_init_connect. CONNECT sets every register before it reads it: five at its
start (`connectStart_with_registers`), the other two in an init run (`initSequence_setDw_setInitState`). An init run is
the ten rows of R137's table: the handshake, the mode commands and the last row. A delay is recorded by `delayInit`
alone, so every move of an operation keeps their count. -/
namespace Sys2Proof.Machine

/-! ## CONNECT (R131, R136) -/

/-- Settles O30: CONNECT tests `ENG_STATE` first. -/
theorem connectWhenConnectedDoesNothing : Obligations.ConnectWhenConnectedDoesNothing :=
  fun _ h => congrArg Host.Outcome.next (if_neg h)

theorem exec_connect_of_disconnected {s : State} (h : s.engState = .disconnected) :
    exec .connect s = .next (connectNow s) :=
  congrArg Host.Outcome.next (if_pos h)

/-- An init run sets `INIT_STATE` and `DW` itself (R132). -/
theorem initSequence_setDw_setInitState (init : InitState) (dw : Bool) (s : State) :
    initSequence (setDw dw (setInitState init s)) = initSequence s := rfl

theorem initControllers_setDw_setInitState (init : InitState) (dw : Bool) (s : State) :
    initControllers (setDw dw (setInitState init s)) = initControllers s := by
  unfold initControllers
  rw [initSequence_setDw_setInitState]
  rfl

/-- The start of CONNECT sets the other five registers; `INIT_STATE` and `DW` stay (R131). -/
theorem connectStart_with_registers (init : InitState) (active : Controller) (rs : Byte) (dw err opened : Bool)
    (cached : Byte) (s : State) :
    connectStart { s with initState := init, active := active, rs := rs, dw := dw, err := err, opened := opened,
                          cached := cached } = setDw dw (setInitState init (connectStart s)) := rfl

/-- Settles O60: what the start of CONNECT leaves of the old registers, the init run sets. -/
theorem connectRebuildsEverything : Obligations.ConnectRebuildsEverything := by
  intro s init active rs dw err opened cached h
  rw [exec_connect_of_disconnected h, exec_connect_of_disconnected, connectNow_eq, connectNow_eq,
    connectStart_with_registers, initControllers_setDw_setInitState]
  exact h

/-! ## The init FSM (R132, R137) -/

theorem initTransitions_add (m n : Nat) (s : State) :
    initTransitions (m + n) s = initTransitions n (initTransitions m s) := by
  induction m generalizing s with
  | zero => rw [Nat.zero_add]; rfl
  | succ m ih => rw [Nat.add_right_comm]; exact ih (initTransition s)

/-- The table's first four rows; a delay and a change of `DW` do not depend on when `INIT_STATE` is set. -/
theorem initTransitions_handshake {s : State} (h : s.initState = .uninitialized) :
    initTransitions 4 s = initHandshake s := by
  simp only [initTransitions, initTransition, h, setInitState_initState]
  rfl

/-- The table's rows for the five mode commands. -/
theorem initTransitions_modes {s : State} (h : s.initState = .switch4bit) : initTransitions 5 s = initModes s := by
  simp only [initTransitions, initTransition, h, setInitState_initState]
  rfl

theorem initTransition_of_displayOn {s : State} (h : s.initState = .displayOn) :
    initTransition s = setInitState .initReady s := by
  simp only [initTransition, h]

/-- Settles O33: four transitions of handshake, five of mode commands, and the last one into INIT_READY. -/
theorem initSequenceFollowsTheTransitionTable : Obligations.InitSequenceFollowsTheTransitionTable := by
  intro s
  rw [initTransitions_add 4 6, initTransitions_add 5 1, initTransitions_handshake rfl, initTransitions_modes rfl]
  exact (initTransition_of_displayOn rfl).symm

/-! ## Delays (R133, R228) -/

/-- The trace of a Port write is its attempt, if the Port is open. -/
@[simp] theorem pw_delays (m d : Byte) (s : State) : delays (pw m d s).log = delays s.log := by
  obtain ⟨-, h⟩ | ⟨-, -, h⟩ | ⟨-, -, h⟩ := pw_cases m d s <;> simp [h, delays, isDelay]

section Delays
variable (s : State)

@[simp] theorem pwControl_delays (d : Byte) : delays (pwControl d s).log = delays s.log := pw_delays _ _ _
@[simp] theorem strobe_delays (n : Nibble) : delays (strobe n s).log = delays s.log := by simp [strobe]
@[simp] theorem sendByte_delays (v : Byte) : delays (sendByte v s).log = delays s.log := by
  unfold sendByte; split <;> simp
@[simp] theorem writeCommand_delays (c : Byte) : delays (writeCommand c s).log = delays s.log := by simp [writeCommand]

@[simp] theorem closePort_delays : delays (closePort s).log = delays s.log := by
  unfold closePort; split <;> simp [delays, isDelay]

end Delays

theorem Move.delays {s t : State} (m : Move s t) : delays t.log = delays s.log := by
  cases m with
  | command c => exact writeCommand_delays s c
  | data d => exact sendByte_delays s d
  | select c => rfl
  | backlight hbl level => exact pw_delays _ _ s
  | fourBit ho => rfl
  | result b => rfl

theorem Operation.delays {s t : State} (o : Operation s t) : delays t.log = delays s.log := by
  obtain ⟨hmoves, -⟩ := o
  induction hmoves with
  | refl => rfl
  | tail _ m ih => exact m.delays.trans ih

/-- Settles O58: besides CONNECT there are only operations, which are made of moves, and the closing of the Port. -/
theorem onlyConnectDelays : Obligations.OnlyConnectDelays := by
  intro i s t hx hc
  cases executed_of_exec hx with
  | operation o => exact o.delays
  | connect _ => exact absurd rfl hc
  | disconnect _ => exact closePort_delays s

end Sys2Proof.Machine
end

section
/-! SUPPORT. Proofs of the family 42_display_ops: the operations without effect. A gated operation is its body behind
the READY gate (`whenReady_of_not_ready`); BACKLIGHT's body is a no-op when there is no pin (`backlightNow_of_no_pin`). -/
namespace Sys2Proof.Machine

/-! ## The READY gate (R150) -/

theorem whenReady_of_not_ready {s : State} (h : s.engState ≠ .ready) (f : State → State) : whenReady f s = s := if_neg h

theorem printOp_of_not_ready {s : State} (h : s.engState ≠ .ready) (line : Byte) (text : List Byte) :
    printOp line text s = s := whenReady_of_not_ready h _

theorem setCgramOp_of_not_ready {s : State} (h : s.engState ≠ .ready) (address : BitVec 6) (pattern : List Byte) :
    setCgramOp address pattern s = s := whenReady_of_not_ready h _

/-- INIT_BARGRAPH has no gate of its own: each of its SET_CGRAMs is gated out (R150, R181). -/
theorem initBargraphOp_of_not_ready {s : State} (h : s.engState ≠ .ready) : initBargraphOp s = s :=
  List.foldl_fixed' (fun k => setCgramOp_of_not_ready h (slotAddress k) (glyph k)) _

/-- Settles O35: each gated operation is a body behind the gate, a PRINT, or SET_CGRAMs. -/
theorem gatedOperationsNeedReady : Obligations.GatedOperationsNeedReady := by
  intro i s hg h
  cases i with
  | print line text => exact congrArg Host.Outcome.next (printOp_of_not_ready h line text)
  | clearLine line => exact congrArg Host.Outcome.next (printOp_of_not_ready h line (spaces s.cfg))
  | clearDisplay => exact congrArg Host.Outcome.next (whenReady_of_not_ready h clearDisplayNow)
  | setCgram address pattern => exact congrArg Host.Outcome.next (setCgramOp_of_not_ready h address pattern)
  | backlight enable => exact congrArg Host.Outcome.next (whenReady_of_not_ready h (backlightNow enable))
  | initBargraph => exact congrArg Host.Outcome.next (initBargraphOp_of_not_ready h)
  | bargraph line value =>
    exact congrArg Host.Outcome.next (printOp_of_not_ready h line (barString value.toNat s.cfg.width))
  | _ => simp [gated] at hg -- not gated

/-! ## BACKLIGHT without a pin (R155) -/

theorem whenReady_of_fixed {f : State → State} {s : State} (h : f s = s) : whenReady f s = s := by
  unfold whenReady
  rw [h, ite_self]

theorem backlightNow_of_no_pin {s : State} (h : s.cfg.pins.bl = none) (enable : Bool) : backlightNow enable s = s := by
  unfold backlightNow
  rw [h]

/-- Settles O46: gated out or not, BACKLIGHT then answers the state it found. -/
theorem backlightWithoutAPinDoesNothing : Obligations.BacklightWithoutAPinDoesNothing :=
  fun enable _ h => congrArg Host.Outcome.next (whenReady_of_fixed (backlightNow_of_no_pin h enable))

/-! ## NOP and the reserved opcodes (R85, R159) -/

/-- A frame with a reserved opcode decodes whatever follows the opcode, its fixed part. -/
theorem decodeFrame_reserved {opcode : Byte} (h : 0x0E ≤ opcode.toNat) (args : List Byte) :
    decodeFrame (opcode :: args) = .ok (.reserved opcode) := by
  have hlong : fixedLength opcode.toNat ≤ args.length + 1 := by
    rw [Laws.EncodedLength.fixedLength_reserved _ h]
    exact Nat.le_add_left 1 args.length
  rw [decodeFrame_of_long hlong, decodeOperands_reserved h]

/-- Settles O49: the two operations answer the state they find. -/
theorem nopAndReservedOpcodesDoNothing : Obligations.NopAndReservedOpcodesDoNothing :=
  ⟨fun _ => rfl, fun _ args h => ⟨decodeFrame_reserved h args, fun _ => rfl⟩⟩

end Sys2Proof.Machine
end

section
/-! SUPPORT. Proofs of the family 43_pseudo_ops: the bar string and BARGRAPH. The bar string has three shapes (covered,
ending on a cell border, ending inside a cell), and a cell three (full, partial, empty). -/
namespace Sys2Proof.Machine

/-! ## The bar string (R183): one equation per shape of the field -/

/-- A value that covers the field leaves full glyphs only. -/
theorem barString_of_covered {v w : Nat} (h : 5 * w ≤ v) : barString v w = List.replicate w 0x05 := if_pos h

/-- A value that ends on a cell border leaves no partial glyph. -/
theorem barString_of_aligned {v w : Nat} (h : v < 5 * w) (hr : v % 5 = 0) :
    barString v w = List.replicate (v / 5) 0x05 ++ List.replicate (w - v / 5) 0x00 := by
  simp [barString, Nat.not_le.mpr h, hr]

/-- A value that ends inside a cell leaves the glyph of the remainder there. -/
theorem barString_of_remainder {v w : Nat} (h : v < 5 * w) (hr : v % 5 ≠ 0) :
    barString v w =
      List.replicate (v / 5) 0x05 ++ BitVec.ofNat 8 (v % 5) :: List.replicate (w - v / 5 - 1) 0x00 := by
  simp [barString, Nat.not_le.mpr h, hr]

@[simp] theorem barString_length (v w : Nat) : (barString v w).length = w := by
  by_cases h : 5 * w ≤ v
  · rw [barString_of_covered h, List.length_replicate]
  · by_cases hr : v % 5 = 0
    · simp only [barString_of_aligned (Nat.not_le.mp h) hr, List.length_append, List.length_replicate]
      omega
    · simp only [barString_of_remainder (Nat.not_le.mp h) hr, List.length_append, List.length_cons,
        List.length_replicate]
      omega

/-- A covered cell is full. -/
theorem barString_full_cell {v w k : Nat} (hk : k < w) (h : 5 * (k + 1) ≤ v) : (barString v w)[k]? = some 0x05 := by
  by_cases hw : 5 * w ≤ v
  · rw [barString_of_covered hw, List.getElem?_replicate_of_lt hk]
  · have hq : k < v / 5 := by omega
    have hprefix (rest : List Byte) : (List.replicate (v / 5) 0x05 ++ rest)[k]? = some 0x05 := by
      rw [List.getElem?_append_left (by simpa using hq), List.getElem?_replicate_of_lt hq]
    by_cases hr : v % 5 = 0
    · rw [barString_of_aligned (Nat.not_le.mp hw) hr, hprefix]
    · rw [barString_of_remainder (Nat.not_le.mp hw) hr, hprefix]

/-- The cell the value ends inside is the one after the `v / 5` full ones. -/
theorem barString_partial_cell {v w k : Nat} (hk : k < w) (h : 5 * k < v) (h' : v < 5 * (k + 1)) :
    (barString v w)[k]? = some (BitVec.ofNat 8 (v - 5 * k)) := by
  have hq : v / 5 = k := by omega
  have hr : v % 5 = v - 5 * k := by omega
  rw [barString_of_remainder (by omega) (by omega), hq, hr]
  simp

/-- A cell the value does not reach is empty. -/
theorem barString_empty_cell {v w k : Nat} (hk : k < w) (h : v ≤ 5 * k) : (barString v w)[k]? = some 0x00 := by
  have hw : v < 5 * w := by omega
  by_cases hr : v % 5 = 0
  · rw [barString_of_aligned hw hr, List.getElem?_append_right (by simp; omega), List.length_replicate,
      List.getElem?_replicate_of_lt (by omega)]
  · have hq : k - v / 5 = (k - v / 5 - 1) + 1 := by omega
    rw [barString_of_remainder hw hr, List.getElem?_append_right (by simp; omega), List.length_replicate, hq,
      List.getElem?_cons_succ, List.getElem?_replicate_of_lt (by omega)]

/-- Settles O50: a cell is covered, partly covered or not reached. -/
theorem barStringFillsTheField : Obligations.BarStringFillsTheField := by
  refine fun v w => ⟨barString_length v w, fun k hk => ?_⟩
  split_ifs with hfull hpartial
  · exact barString_full_cell hk hfull
  · exact barString_partial_cell hk hpartial (Nat.not_le.mp hfull)
  · exact barString_empty_cell hk (Nat.not_lt.mp hpartial)

/-! ## BARGRAPH (R184) -/

/-- Settles O52: BARGRAPH is that PRINT by definition, and PRINT writes the `WIDTH` codes of the bar string. -/
theorem bargraphPrintsTheBarString : Obligations.BargraphPrintsTheBarString := by
  intro line value s
  have hprint : exec (.bargraph line value) s = exec (.print line (barString value.toNat s.cfg.width)) s := rfl
  refine ⟨hprint, fun h => ?_⟩
  obtain ⟨t, evs, hx, hlog, -, hn, herr, hact, hrs, hkept, hpins, -⟩ :=
    printCompletes line (barString value.toNat s.cfg.width) s h
  rw [barString_length] at hn
  exact ⟨t, evs, hprint.trans hx, hlog, hn, herr, hact, hrs, hkept, hpins⟩

end Sys2Proof.Machine
end

section
/-! SUPPORT. Proofs of the family 60_exceptions. What an error condition says of its operation (`conditionMet`), and
the controllers in step. A controller stands ready (`Standing`) when it attends and is initialised; every burst of a
display operation leaves the controllers so, and CONNECT makes them so: its last command on each controller leaves
Enable and RW low (`initSequence_low`). -/
namespace Sys2Proof.Machine

/-! ## Error conditions (R200 to R203, R207) -/

theorem gated_of_notReady {i : Instr} {s : State} (h : conditionMet i s = some .notReady) :
    gated i = true ∧ s.engState ≠ .ready := by
  unfold conditionMet at h
  split_ifs at h with hwf hgate
  · exact absurd h (by decide)
  · simpa using hgate
  · split at h
    · exact absurd h (by decide)
    · split_ifs at h
      exact absurd h (by decide)

theorem validLine_of_invalidLineNumber {i : Instr} {line : Byte} {s : State} (hi : lineOperand i = some line)
    (h : conditionMet i s = some .invalidLineNumber) : validLine s.cfg line = false := by
  simp only [conditionMet, hi] at h
  split_ifs at h with hwf hgate hline
  · exact absurd h (by decide)
  · exact absurd h (by decide)
  · simpa using hline

theorem lineAddr_one (p : Params) : lineAddr p 1 = (.one, 0x00) := by
  unfold lineAddr
  split <;> rfl

theorem printOp_of_invalidLineNumber {i : Instr} {line : Byte} {s : State} (hi : lineOperand i = some line)
    (h : conditionMet i s = some .invalidLineNumber) (text : List Byte) : printOp line text s = printOp 1 text s := by
  have hnow : printNow line text s = printNow 1 text s := by
    rw [printNow, printNow, lineAddr_of_invalid (validLine_of_invalidLineNumber hi h), lineAddr_one]
  unfold printOp whenReady
  rw [hnow]

/-- Settles O36: NotReady means a gated operation outside READY; the three operations with a line are PRINTs, which
read the line in `lineAddr` alone. -/
theorem errorConditionsAreNoOpsOrDefaults : Obligations.ErrorConditionsAreNoOpsOrDefaults := by
  refine ⟨fun i s h => ?_,
    fun _ text _ h => congrArg Host.Outcome.next (printOp_of_invalidLineNumber rfl h text),
    fun _ s h => congrArg Host.Outcome.next (printOp_of_invalidLineNumber rfl h (spaces s.cfg)),
    fun _ value s h =>
      congrArg Host.Outcome.next (printOp_of_invalidLineNumber rfl h (barString value.toNat s.cfg.width))⟩
  obtain ⟨hgated, hready⟩ := gated_of_notReady h
  exact gatedOperationsNeedReady i s hgated hready

/-! ## Controllers that stand ready -/

/-- Controller `c` attends and is initialised (R222): what `InStep` says of each controller that exists. -/
structure Standing (c : Controller) (s : State) : Prop where
  attends : Attends c s
  initialised : Initialised (lcdOf c s)

theorem freshLcd_initialised (g : Memory) : Initialised (freshLcd g) := by simp [Initialised, freshLcd]

theorem lcdDataAll_initialised {l : Lcd} (h : Initialised l) (ds : List Byte) : Initialised (lcdDataAll ds l) := by
  induction ds generalizing l with
  | nil => exact h
  | cons d rest ih =>
    have hnext : Initialised (lcdData d l) := by simpa only [Initialised, lcdData_mode d l] using h
    exact ih hnext

/-- In READY without an error the controllers are in step when RW is low and each that exists stands ready. -/
theorem inStep_of_standing {s : State}
    (h : s.err = false → s.cached &&& bitRw s.cfg = 0 ∧ ∀ c, Present s.cfg c → Standing c s) : InStep s := by
  intro _ herr
  obtain ⟨hrw, hall⟩ := h herr
  have low {c : Controller} (hc : Present s.cfg c) : s.cached &&& bitE s.cfg c = 0 := by
    obtain ⟨-, -, -, hlow⟩ := (hall c hc).attends.listening
    exact hlow
  exact ⟨hrw, low (.inl rfl), (hall .one (.inl rfl)).initialised,
    fun hdual => ⟨low (.inr hdual), (hall .two (.inr hdual)).initialised⟩⟩

theorem InStep.standing {s : State} (h : InStep s) (hb : ReadyBetweenOps s) (herr : s.err = false) {c : Controller}
    (hc : Present s.cfg c) : Standing c s := by
  obtain ⟨-, -, hone, htwo⟩ := h hb.ready herr
  refine ⟨h.attends hb herr hc, ?_⟩
  cases c with
  | one => exact hone
  | two => exact (htwo (hc.resolve_left (by decide))).2

theorem Standing.select {c : Controller} {s : State} (h : Standing c s) (d : Controller) :
    Standing c (Machine.select d s) :=
  ⟨h.attends.select d, by simpa using h.initialised⟩

/-! ## Display operations keep the controllers in step -/

/-- A clean burst leaves the controllers standing ready: the one it reaches gets data and an address byte, which
changes no mode; the other it does not reach. -/
theorem burst_standing {s : State} (hwf : wellFormedParams s.cfg = true) (hd : s.dw = true) {c c' : Controller}
    (hc : Standing c s) (hc' : Standing c' s) {b : Byte} {F : Lcd → Lcd} (hF : AddressByte b F)
    (hmode : ∀ l, Initialised l → Initialised (F l)) {data : List Byte} (herr : (burst c b data s).err = false) :
    Standing c' (burst c b data s) := by
  obtain rfl | rfl : c' = c ∨ c' = otherController c := by cases c <;> cases c' <;> decide
  · obtain ⟨hsink, hat⟩ := burst_clean hwf hd hc.attends hF data herr
    exact ⟨hat, hsink ▸ lcdDataAll_initialised (hmode _ hc.initialised) data⟩
  · exact ⟨burst_attends_other hwf hc'.attends b data, by rw [burst_other hwf]; exact hc'.initialised⟩

theorem burstEach_standing {s : State} (hwf : wellFormedParams s.cfg = true) (hd : s.dw = true)
    (hall : ∀ c, Present s.cfg c → Standing c s) {b : Byte} {F : Lcd → Lcd} (hF : AddressByte b F)
    (hmode : ∀ l, Initialised l → Initialised (F l)) {data : List Byte} (herr : (burstEach b data s).err = false)
    {c : Controller} (hc : Present s.cfg c) : Standing c (burstEach b data s) := by
  have first (h : (burst .one b data s).err = false) {c : Controller} (hc : Present s.cfg c) :=
    burst_standing hwf hd (hall .one (.inl rfl)) (hall c hc) hF hmode h
  unfold burstEach at herr ⊢
  split at herr
  next hdual =>
    rw [if_pos hdual]
    have hone := burst_err_of_clean herr
    exact (burst_standing (by simpa using hwf) (by simpa using hd) (first hone (.inr hdual)) (first hone hc) hF hmode
      herr).select .one
  next hsingle =>
    rw [if_neg hsingle]
    exact (first herr hc).select .one

/-- An operation keeps the controllers in step when each stands ready after it: no operation drives RW high. -/
theorem Operation.inStep {s t : State} (o : Operation s t) (h : ReadyBetweenOps s) (hin : InStep s)
    (hall : s.err = false → t.err = false → ∀ c, Present s.cfg c → Standing c t) : InStep t := by
  refine inStep_of_standing fun herr => ?_
  have hclean := o.err_of_clean herr
  obtain ⟨hrw, -⟩ := hin h.ready hclean
  obtain ⟨-, hfit⟩ := (betweenOps_iff s).mp h.1
  obtain ⟨hrw', -⟩ := o.staysLow (undriven_bitRw h.wellFormed) hfit hrw
  rw [o.surroundings.cfg]
  exact ⟨hrw', hall hclean herr⟩

section Ready
variable {s : State} (h : ReadyBetweenOps s) (hin : InStep s)
include h hin

theorem printOp_inStep (line : Byte) (text : List Byte) : InStep (printOp line text s) := by
  refine (printOp_operation line text s).inStep h hin fun hclean herr c hc => ?_
  rw [printOp, whenReady_of_ready h.ready, printNow_eq_burst] at herr ⊢
  obtain ⟨-, hd⟩ := h.open_dw
  exact (burst_standing h.wellFormed hd (hin.standing h hclean (lineAddr_controller s.cfg line))
    (hin.standing h hclean hc) (setDdram_addressByte _) (fun _ hl => hl) herr).select .one

theorem clearDisplayNow_inStep : InStep (clearDisplayNow s) := by
  refine (clearDisplayNow_operation s).inStep h hin fun hclean herr c hc => ?_
  rw [clearDisplayNow_eq_burstEach h.active] at herr ⊢
  obtain ⟨-, hd⟩ := h.open_dw
  exact burstEach_standing h.wellFormed hd (fun _ => hin.standing h hclean) clear_addressByte (fun _ hl => hl) herr hc

theorem setCgramOp_inStep (a : BitVec 6) (rows : List Byte) : InStep (setCgramOp a rows s) := by
  refine (setCgramOp_operation a rows s).inStep h hin fun hclean herr c hc => ?_
  rw [setCgramOp, whenReady_of_ready h.ready, setCgramNow_eq_burstEach] at herr ⊢
  obtain ⟨-, hd⟩ := h.open_dw
  exact burstEach_standing h.wellFormed hd (fun _ => hin.standing h hclean) (setCgram_addressByte a) (fun _ hl => hl)
    herr hc

theorem loadGlyphs_inStep (n : Nat) : InStep (loadGlyphs n s) := by
  induction n with
  | zero => exact hin
  | succ n ih =>
    rw [loadGlyphs_succ]
    exact setCgramOp_inStep (loadGlyphs_ready h n) ih _ _

/-- BACKLIGHT writes a pin that is no controller's Enable. -/
theorem backlightNow_inStep (enable : Bool) : InStep (backlightNow enable s) := by
  cases hbl : s.cfg.pins.bl with
  | none => rwa [backlightNow_of_no_pin hbl]
  | some pin =>
    refine (backlightNow_operation enable s).inStep h hin fun hclean _ c hc => ?_
    have hmask := backlightMask_keeps_enable h.wellFormed hbl c
    rw [backlightNow_eq_pw hbl]
    obtain ⟨⟨⟨h4, hpend, hE, hlow⟩, hinc⟩, hinit⟩ := hin.standing h hclean hc
    have hsink := pw_lcdOf hmask (if enable then pinBit pin else 0#8)
    have hpins := pw_pins hmask (if enable then pinBit pin else 0#8) s
    rw [← hsink] at h4 hpend hinc hinit
    exact ⟨⟨⟨h4, hpend, by simpa using hE, by rw [pw_cfg, hpins, hlow]⟩, hinc⟩, hinit⟩

end Ready

/-! ## CONNECT brings the controllers in step -/

/-- A clean transfer ends with Enable and RW low and RS at its level, whatever the controllers make of it (R111). -/
theorem sendByte_levels {s : State} {e : Nat} (h : TransferPins s.cfg s.active e) {r : Bool}
    (hr : s.rs = if r then bitRs s.cfg else 0) {v : Byte} (hc : (sendByte v s).err = false) :
    Levels s.cfg e (sendByte v s).cached false r := by
  have last {t : State} {n : Nibble} (hcfg : t.cfg = s.cfg) (hact : t.active = s.active) (hrs : t.rs = s.rs)
      (ht : (strobe n t).err = false) : Levels s.cfg e (strobe n t).cached false r := by
    obtain ⟨-, -, hlevels, -⟩ := strobe_clean (by rwa [hcfg, hact]) (by rw [hrs, hcfg, hr]) ht
    rwa [hcfg] at hlevels
  unfold sendByte at hc ⊢
  split at hc
  next hd =>
    rw [if_pos hd]
    exact last (by simp) (by simp) (by simp) hc
  next hd =>
    rw [if_neg hd]
    exact last (by simp) (by simp) (by simp) hc

/-- A clean init run ends with RW and its controller's Enable low: its last command leaves them so. -/
theorem initSequence_low {c : Controller} {s : State} (hwf : wellFormedParams s.cfg = true) (hact : s.active = c)
    (hc : Present s.cfg c) (herr : (initSequence s).err = false) :
    (initSequence s).cached &&& bitRw s.cfg = 0 ∧ (initSequence s).cached &&& bitE s.cfg c = 0 := by
  obtain ⟨e, he⟩ := enablePin_of_bitE (bitE_ne_zero hwf hc)
  have hp := transferPins_of_wellFormed hwf he
  obtain ⟨t, hcfg, hact', hlast⟩ : ∃ t : State, t.cfg = s.cfg ∧ t.active = c ∧
      initSequence s = setInitState .initReady (setInitState .displayOn (writeCommand displayOnByte t)) :=
    ⟨_, by simp [initHandshake], by simp [initHandshake, hact], rfl⟩
  rw [hlast] at herr ⊢
  obtain ⟨henable, -, hrw⟩ := sendByte_levels (s := setRs 0#8 t) (e := e) (r := false) (v := displayOnByte)
    (by rwa [setRs_cfg, setRs_active, hcfg, hact']) rfl herr
  rw [setRs_cfg, hcfg] at hrw
  exact ⟨(and_pinBit_eq_zero hp.rw_lt _).mpr hrw, (enable_low_iff hp _).mpr henable⟩

/-- The init runs of a CONNECT, without a failed write: RW and the Enable of each controller that exists are low. -/
theorem initControllers_low {s : State} (hwf : wellFormedParams s.cfg = true) (hone : s.active = .one)
    (ho : s.opened = true) (herr : (initControllers s).err = false) :
    (initControllers s).cached &&& bitRw s.cfg = 0 ∧
    ∀ c, Present s.cfg c → (initControllers s).cached &&& bitE s.cfg c = 0 := by
  have hfirst := initSequence_low hwf hone (.inl rfl)
  unfold initControllers at herr ⊢
  split at herr
  next hdual =>
    rw [if_pos hdual, select_cached]
    rw [select_err] at herr
    generalize ht : select .two (initSequence s) = t at herr
    have hcfg : t.cfg = s.cfg := by simp [← ht]
    have hact : t.active = .two := by simp [← ht]
    have hclean : t.err = false := initSequence_err_of_clean (by simpa [← ht] using ho) herr
    obtain ⟨hrw, hlow2⟩ := initSequence_low (hcfg ▸ hwf) hact (.inr (hcfg ▸ hdual)) herr
    have hspare : (initSequence t).cached &&& bitE t.cfg .one = t.cached &&& bitE t.cfg .one :=
      (initSequence_sparesOther (hcfg ▸ hwf) hact).enable
    rw [hcfg] at hrw hlow2 hspare
    have hlow1 : t.cached &&& bitE s.cfg .one = 0 := by
      rw [← ht, select_err] at hclean
      rw [← ht, select_cached]
      exact (hfirst hclean).2
    refine ⟨hrw, fun c _ => ?_⟩
    cases c with
    | one => exact hspare.trans hlow1
    | two => exact hlow2
  next hsingle =>
    rw [if_neg hsingle]
    obtain ⟨hrw, hlow⟩ := hfirst herr
    exact ⟨hrw, fun c hc => hc.resolve_right hsingle ▸ hlow⟩

/-- CONNECT out of DISCONNECTED brings the controllers in step, from any state of them (R222). -/
theorem connectNow_inStep {s : State} (hwf : wellFormedParams s.cfg = true) : InStep (connectNow s) := by
  intro _ herr
  rw [connectNow_eq, setEngState_err] at herr
  obtain ⟨hone, htwo⟩ := initControllers_clean (s := connectStart s) hwf rfl rfl herr
  obtain ⟨hrw, hlow⟩ := initControllers_low (s := connectStart s) hwf rfl rfl herr
  have hcfg : (connectNow s).cfg = (connectStart s).cfg := (initControllers_surroundings _).cfg
  rw [hcfg]
  refine ⟨hrw, hlow .one (.inl rfl), ?_, fun hdual => ⟨hlow .two (.inr hdual), ?_⟩⟩
  · rw [connectNow_eq, setEngState_lcd1, hone]
    exact freshLcd_initialised _
  · rw [connectNow_eq, setEngState_lcd2, htwo, if_pos hdual]
    exact freshLcd_initialised _

/-! ## A step keeps the controllers in step -/

/-- A gated operation is made of display operations in READY, and does nothing elsewhere. -/
theorem gated_inStep {i : Instr} {s : State} (hg : gated i = true) (h : BetweenOps s) (hin : InStep s) :
    ∃ t, exec i s = .next t ∧ InStep t := by
  by_cases he : s.engState = .ready
  · have hready : ReadyBetweenOps s := ⟨h, he⟩
    cases i with
    | print line text => exact ⟨_, rfl, printOp_inStep hready hin line text⟩
    | clearLine line => exact ⟨_, rfl, printOp_inStep hready hin line (spaces s.cfg)⟩
    | clearDisplay => exact ⟨_, congrArg Host.Outcome.next (whenReady_of_ready he _), clearDisplayNow_inStep hready hin⟩
    | setCgram address pattern => exact ⟨_, rfl, setCgramOp_inStep hready hin address pattern⟩
    | backlight enable =>
      exact ⟨_, congrArg Host.Outcome.next (whenReady_of_ready he _), backlightNow_inStep hready hin enable⟩
    | initBargraph => exact ⟨_, congrArg Host.Outcome.next (initBargraphOp_eq s), loadGlyphs_inStep hready hin 6⟩
    | bargraph line value => exact ⟨_, rfl, printOp_inStep hready hin line (barString value.toNat s.cfg.width)⟩
    | _ => simp [gated] at hg -- not gated
  · exact ⟨s, gatedOperationsNeedReady i s hg he, hin⟩

theorem connect_inStep {s : State} (h : BetweenOps s) (hin : InStep s) : ∃ t, exec .connect s = .next t ∧ InStep t := by
  by_cases he : s.engState = .disconnected
  · exact ⟨_, exec_connect_of_disconnected he, connectNow_inStep h.1⟩
  · exact ⟨s, connectWhenConnectedDoesNothing s he, hin⟩

/-- DISCONNECT leaves READY. -/
theorem disconnect_inStep {s : State} (hin : InStep s) : ∃ t, exec .disconnect s = .next t ∧ InStep t := by
  obtain ⟨hnothing, hcloses⟩ := disconnectCompletes
  by_cases he : s.engState = .disconnected
  · exact ⟨s, hnothing s he, hin⟩
  · obtain ⟨t, hx, hdisc, -⟩ := hcloses s he
    exact ⟨t, hx, fun hready => absurd hready (by simp [hdisc])⟩

/-- Every host operation keeps the controllers in step. An LCD row need not: FORCE_8BIT leaves 4-bit mode. -/
theorem exec_inStep {i : Instr} {s : State} (hi : i.layer = .hostFrame) (h : BetweenOps s) (hin : InStep s) :
    ∃ t, exec i s = .next t ∧ InStep t := by
  have result (b : Byte) : InStep (returnByte b s) := hin
  cases hg : gated i with
  | true => exact gated_inStep hg h hin
  | false =>
    cases i with
    | connect => exact connect_inStep h hin
    | disconnect => exact disconnect_inStep hin
    | nop | reserved => exact ⟨s, rfl, hin⟩
    | setCgramAuto | hasBacklight | getWidth | getHeight => exact ⟨_, rfl, result _⟩
    | print | clearLine | clearDisplay | backlight | setCgram | initBargraph | bargraph => simp [gated] at hg
    | _ => simp [Instr.layer] at hi -- the LCD rows

/-- `step_cases` with the layer of the operation: a frame decodes to host operations only (R80). -/
theorem step_hostFrame_cases {s : State} (h : wellFormedParams s.cfg = true) :
    (∃ rest, step s = .next { s with hostIn := rest }) ∨
    ∃ i rest, i.layer = .hostFrame ∧ step s = exec i { s with hostIn := rest } := by
  cases hf : takeFrame s.hostIn with
  | none => exact .inl ⟨s.hostIn, stepWaitsForAFrame s h hf⟩
  | some cut =>
    obtain ⟨frame, rest⟩ := cut
    cases hd : decodeFrame frame with
    | error _ => exact .inl ⟨rest, by simp only [step, h, if_true, accept_of_error hf hd]⟩
    | ok i =>
      obtain ⟨-, hhost⟩ := framesDecodeToWellFormedHostOperations frame i hd
      exact .inr ⟨i, rest, hhost, stepRunsTheDecodedInstruction s frame rest i h hf hd⟩

/-- Settles O15: consuming host bytes moves no pin and no controller, and a step runs host operations alone. -/
theorem stepKeepsControllersInStep : Obligations.StepKeepsControllersInStep := by
  intro s t h hin hs
  obtain ⟨rest, e⟩ | ⟨i, rest, hi, e⟩ := step_hostFrame_cases h.1
  · rw [e] at hs
    exact Host.Outcome.next.inj hs ▸ hin
  · obtain ⟨u, hx, hu⟩ := exec_inStep (s := { s with hostIn := rest }) hi h hin
    exact Host.Outcome.next.inj ((e.trans hx).symm.trans hs) ▸ hu

end Sys2Proof.Machine
end
